-- ==== Sys2Proof/Word.lean ====
section
/-! DEFINITION. The word type and the index types of the block (spec/00_scope.md R5, R9). -/

namespace Sys2Proof

/-- A register, a stream word's data and a data-memory word: 32 bits (R5, R21, R73). -/
abbrev Word := BitVec 32

/-- One byte of data memory (R70). -/
abbrev Byte := BitVec 8

/-- A tile of the fabric.  The model holds two tiles, so that one of each kind can be present (R7, R20); log 5. -/
abbrev TileId := Fin 2

/-- A buffer-descriptor index, `N_BD = 16` (R5). -/
abbrev BdIx := Fin 16

/-- A word index of a buffer descriptor, 7 words (R24). -/
abbrev BdWordIx := Fin 7

/-- A DMA channel, `N_CH = 4`: 0 S2MM0, 1 S2MM1, 2 MM2S0, 3 MM2S1 (R5, R27). -/
abbrev ChIx := Fin 4

/-- A lock of a tile, `N_LOCK = 16` (R5). -/
abbrev LockIx := Fin 16

/-- A packet slot of a slave port, `N_SLOT = 4` (R5). -/
abbrev SlotIx := Fin 4

/-- A master port id.  A port id has 7 bits, as a circuit master's `Config` names one (R130, R305); how many a tile has is
`PortTable(kind)` (log 34). -/
abbrev MasterId := Fin 128

/-- A slave port id, 7 bits as a circuit master's `Config` (R130, R305; log 34). -/
abbrev SlaveId := Fin 128

end Sys2Proof
end

