-- ==== Sys2Proof/Syntax.lean ====
section
/-! DEFINITION. The syntax of the machine: one constructor of `Instr` per row of spec/opcode_table.json
(transactions, agent steps and commands, spec/00_scope.md R3), and the operand types they carry. -/

namespace Sys2Proof

/-- The two tile kinds (R7): compute tile, boundary tile. -/
inductive TileKind where
  | ct | bt
  deriving DecidableEq, Repr, Inhabited

/-- The two address slots of a buffer descriptor (R42, R51). -/
inductive Slot where
  | a | b
  deriving DecidableEq, Repr, Inhabited

/-- The six kinds of lock request (R150); `acqV v` and `relV v` carry the value. -/
inductive LockKind where
  | acqNV | acqV (v : Bool) | relNV | relV (v : Bool)
  deriving DecidableEq, Repr, Inhabited

/-- A stream word (R47): `last` marks the final word of a packet or of a transfer. -/
structure StreamWord where
  data : Word
  last : Bool
  deriving DecidableEq, Repr, Inhabited

/-- The direction of a port (R300): a master sends words out of the switch, a slave brings words in. -/
inductive PortDir where
  | master | slave
  deriving DecidableEq, Repr, Inhabited

/-- The source's fixed set of direction classes (R300). -/
inductive PortClass where
  | core | dma | ctrl | fifo | south | west | north | east | trace
  deriving DecidableEq, Repr, Inhabited

/-- The buffer-slot argument of a setter: `A`, `B`, or a name that is neither (R194 `BadSlot`). -/
inductive SlotArg where
  | a | b | other
  deriving DecidableEq, Repr, Inhabited

/-- The axis argument of `bd.set2D`: `X`, `Y`, or a name that is neither (R195 `BadAxis`). -/
inductive AxisArg where
  | x | y | other
  deriving DecidableEq, Repr, Inhabited

/-- A lock-value argument, written `0`, `1` or `none` (R146): a number, or the "no value" sentinel by name. -/
inductive ValArg where
  | num (n : Nat) | none
  deriving DecidableEq, Repr, Inhabited

/-- The environment agents (R8). -/
inductive EnvAgent where
  | core | neighbour
  deriving DecidableEq, Repr, Inhabited

/-- What one environment step does (R314; R8 and D53 for lock requests and data-memory accesses). -/
inductive EnvAction where
  /-- append a stream word to the queue of a slave port the environment feeds -/
  | push (s : SlaveId) (w : StreamWord)
  /-- remove the head of the queue of a master port the environment drains -/
  | pop (m : MasterId)
  /-- one lock request -/
  | lock (who : EnvAgent) (l : LockIx) (k : LockKind)
  /-- one data-memory read -/
  | read (who : EnvAgent) (wa : Nat)
  /-- one data-memory write -/
  | write (who : EnvAgent) (wa : Nat) (v : Word)
  deriving DecidableEq, Repr, Inhabited

/-- The machine's instructions: the 65 rows of spec/opcode_table.json, in the table's order. -/
inductive Instr where
  -- transactions (R100, R103): tile, fields of the offset, data of a write
  | dmWr (t : TileId) (wa : Nat) (v : Word)
  | dmRd (t : TileId) (wa : Nat)
  | bdWr (t : TileId) (n : BdIx) (k : BdWordIx) (v : Word)
  | bdRd (t : TileId) (n : BdIx) (k : BdWordIx)
  | chCtrlWr (t : TileId) (c : ChIx) (v : Word)
  | chCtrlRd (t : TileId) (c : ChIx)
  | chStartBdWr (t : TileId) (c : ChIx) (v : Word)
  | chStartBdRd (t : TileId) (c : ChIx)
  | chStatusRd (t : TileId) (i : Fin 2)
  | chStatusWr (t : TileId) (i : Fin 2) (v : Word)
  | lockAcqNvRd (t : TileId) (l : LockIx)
  | lockAcqV0Rd (t : TileId) (l : LockIx)
  | lockAcqV1Rd (t : TileId) (l : LockIx)
  | lockRelNvRd (t : TileId) (l : LockIx)
  | lockRelV0Rd (t : TileId) (l : LockIx)
  | lockRelV1Rd (t : TileId) (l : LockIx)
  | lockWr (t : TileId) (l : LockIx) (op : Nat) (v : Word)
  | lockAcqNvRdBt (t : TileId) (l : LockIx)
  | lockAcqV0RdBt (t : TileId) (l : LockIx)
  | lockAcqV1RdBt (t : TileId) (l : LockIx)
  | lockRelNvRdBt (t : TileId) (l : LockIx)
  | lockRelV0RdBt (t : TileId) (l : LockIx)
  | lockRelV1RdBt (t : TileId) (l : LockIx)
  | lockWrBt (t : TileId) (l : LockIx) (op : Nat) (v : Word)
  | mcfgWr (t : TileId) (m : MasterId) (v : Word)
  | mcfgRd (t : TileId) (m : MasterId)
  | scfgWr (t : TileId) (p : SlaveId) (v : Word)
  | scfgRd (t : TileId) (p : SlaveId)
  | slotWr (t : TileId) (p : SlaveId) (k : SlotIx) (v : Word)
  | slotRd (t : TileId) (p : SlaveId) (k : SlotIx)
  -- steps of the walkers, the switch and the environment (R260 to R266, R270, R310, R352, R353, R314)
  | walkStart (t : TileId) (c : ChIx)
  | walkAbandon (t : TileId) (c : ChIx)
  | walkFetch (t : TileId) (c : ChIx)
  | walkAcquire (t : TileId) (c : ChIx)
  | walkHeader (t : TileId) (c : ChIx)
  | walkTransfer (t : TileId) (c : ChIx)
  | walkRelease (t : TileId) (c : ChIx)
  | walkAdvance (t : TileId) (c : ChIx)
  | swCircuit (t : TileId) (p : SlaveId)
  | swPktStart (t : TileId) (p : SlaveId)
  | swPktForward (t : TileId) (p : SlaveId)
  | envStep (t : TileId) (act : EnvAction)
  -- commands (R146): an engine `e` is named by its tile
  | poll (t : TileId) (off : Nat) (mask expected timeout : Nat)
  | lockAcquire (t : TileId) (l : Nat) (v : ValArg) (timeout : Nat)
  | lockRelease (t : TileId) (l : Nat) (v : ValArg) (timeout : Nat)
  | bdSetLock (e : TileId) (n : Nat) (x : SlotArg) (lockId relEn : Nat) (relVal : ValArg) (acqEn : Nat) (acqVal : ValArg)
  | bdSet2D (e : TileId) (n : Nat) (axis : AxisArg) (incr wrap offset : Nat)
  | bdSetInterleave (e : TileId) (n en : Nat) (which : SlotArg) (count current : Nat)
  | bdSetAddrLenMode (e : TileId) (n baseA baseB lengthBytes dbEn fifoMode : Nat)
  | bdSetNext (e : TileId) (n next : Nat)
  | bdSetPacket (e : TileId) (n en type id : Nat)
  | bdClear (e : TileId) (n : Nat)
  | bdClearAll (e : TileId)
  | bdCommit (e : TileId) (n : Nat)
  | chControl (e : TileId) (c reset enable : Nat)
  | chSetStartBd (e : TileId) (c bd : Nat)
  | chReset (e : TileId) (c : Nat)
  | chResetAll (e : TileId)
  | dmaInitialize (e : TileId) (force : Nat)
  | ssPortId (kind : TileKind) (dir : PortDir) (cls : PortClass) (i : Nat)
  | ssConfigureMaster (t : TileId) (cls : PortClass) (i en pktEn cfg : Nat)
  | ssConfigureSlave (t : TileId) (cls : PortClass) (i en pktEn : Nat)
  | ssConnectCircuit (t : TileId) (scls : PortClass) (si : Nat) (mcls : PortClass) (mi enSlave : Nat)
  | ssConfigureSlot (t : TileId) (cls : PortClass) (i k en id mask msel arb : Nat)
  | ssMstrPktConfig (drop mask arb : Nat)
  deriving DecidableEq, Repr, Inhabited

/-- The eight steps a walker can take (R260 to R266, R270). -/
inductive WalkStep where
  | start | abandon | fetch | acquire | header | transfer | release | advance
  deriving DecidableEq, Repr, Inhabited

/-- The three steps a switch can take at a slave port (R310, R352, R353). -/
inductive SwitchStep where
  | circuit | pktStart | pktForward
  deriving DecidableEq, Repr, Inhabited

/-- A step of an agent other than the host: the raw form of the agent-step rows, which have no bit encoding. -/
inductive AgentStep where
  | walk (t : TileId) (c : ChIx) (w : WalkStep)
  | switch (t : TileId) (p : SlaveId) (w : SwitchStep)
  | env (t : TileId) (act : EnvAction)
  deriving DecidableEq, Repr, Inhabited

/-- Whose step comes next (R8, R385). -/
inductive Turn where
  | host
  | agent (a : AgentStep)
  deriving DecidableEq, Repr, Inhabited

end Sys2Proof
end

