-- ==== Sys2Proof/Config.lean ====
section
/-! DEFINITION. What an implementation fixes (the parameters of spec/00_scope.md R6, with their reference values) and the
free values (`choose`, R10).  Free values are opaque constants applied to the counter `State.draws`: nothing evaluates
them. -/

namespace Sys2Proof.Config

/-! ### `Layout(kind)`: offsets, strides and field positions (R6, R21, R78) -/

/-- Where a field of a buffer descriptor stands: its word and its lowest bit (R24, R120 to R126). -/
structure FieldAt where
  word : BdWordIx
  lsb : Nat
  deriving DecidableEq, Repr

/-- The fields of an address slot (R120). -/
structure SlotLayout where
  lockId : FieldAt
  relEn : FieldAt
  relVal : FieldAt
  relValEn : FieldAt
  acqEn : FieldAt
  acqVal : FieldAt
  acqValEn : FieldAt
  base : FieldAt
  deriving DecidableEq, Repr

/-- The fields of a buffer descriptor (R120 to R126). -/
structure BdLayout where
  a : SlotLayout
  b : SlotLayout
  xIncr : FieldAt
  xWrap : FieldAt
  xOff : FieldAt
  yIncr : FieldAt
  yWrap : FieldAt
  yOff : FieldAt
  pktType : FieldAt
  pktId : FieldAt
  intlvWhich : FieldAt
  intlvCur : FieldAt
  valid : FieldAt
  abMode : FieldAt
  fifoMode : FieldAt
  pktEn : FieldAt
  intlvEn : FieldAt
  intlvCnt : FieldAt
  nextEn : FieldAt
  nextBd : FieldAt
  length : FieldAt
  deriving DecidableEq, Repr

/-- The sub-offsets of the six lock requests (R103). -/
structure LockOps where
  relNV : Nat
  relV0 : Nat
  relV1 : Nat
  acqNV : Nat
  acqV0 : Nat
  acqV1 : Nat
  deriving DecidableEq, Repr

/-- `Layout(kind)`: the offset and the strides of every register (R21, R103), and the lowest bit of every field (R120 to
R132).  The lengths of the fields are the spec's (R51, R120 to R132). -/
structure Layout where
  dmBase : Nat
  bdBase : Nat
  bdStride : Nat
  ctrlBase : Nat
  ctrlStride : Nat
  startBdBase : Nat
  startBdStride : Nat
  /-- the offset of the S2MM status register -/
  statusS2mm : Nat
  /-- the offset of the MM2S status register -/
  statusMm2s : Nat
  lockBase : Nat
  lockStride : Nat
  lockOps : LockOps
  mcfgBase : Nat
  mcfgStride : Nat
  scfgBase : Nat
  scfgStride : Nat
  slotBase : Nat
  /-- from a slave port to the next -/
  slotStride : Nat
  /-- from a slot of a port to the next -/
  slotStep : Nat
  bd : BdLayout
  ctrlReset : Nat
  ctrlEnable : Nat
  startBd : Nat
  mcfgEnable : Nat
  mcfgPacket : Nat
  mcfgDrop : Nat
  mcfgConfig : Nat
  scfgEnable : Nat
  scfgPacket : Nat
  slotId : Nat
  slotMask : Nat
  slotEnable : Nat
  slotMsel : Nat
  slotArb : Nat
  deriving DecidableEq, Repr

/-- The descriptor layout of `L_REF` (R120 to R126). -/
def BdLayout.reference : BdLayout where
  a := ⟨⟨0, 22⟩, ⟨0, 21⟩, ⟨0, 20⟩, ⟨0, 19⟩, ⟨0, 18⟩, ⟨0, 17⟩, ⟨0, 16⟩, ⟨0, 0⟩⟩
  b := ⟨⟨1, 22⟩, ⟨1, 21⟩, ⟨1, 20⟩, ⟨1, 19⟩, ⟨1, 18⟩, ⟨1, 17⟩, ⟨1, 16⟩, ⟨1, 0⟩⟩
  xIncr := ⟨2, 24⟩
  xWrap := ⟨2, 16⟩
  xOff := ⟨2, 0⟩
  yIncr := ⟨3, 24⟩
  yWrap := ⟨3, 16⟩
  yOff := ⟨3, 0⟩
  pktType := ⟨4, 12⟩
  pktId := ⟨4, 0⟩
  intlvWhich := ⟨5, 8⟩
  intlvCur := ⟨5, 0⟩
  valid := ⟨6, 31⟩
  abMode := ⟨6, 30⟩
  fifoMode := ⟨6, 28⟩
  pktEn := ⟨6, 27⟩
  intlvEn := ⟨6, 26⟩
  intlvCnt := ⟨6, 18⟩
  nextEn := ⟨6, 17⟩
  nextBd := ⟨6, 13⟩
  length := ⟨6, 0⟩

/-- `L_REF` (R103, R120 to R132); the kinds differ in the base of the lock region. -/
def Layout.reference (k : TileKind) : Layout where
  dmBase := 0
  bdBase := 0x1D000
  bdStride := 0x20
  ctrlBase := 0x1DE00
  ctrlStride := 8
  startBdBase := 0x1DE04
  startBdStride := 8
  statusS2mm := 0x1DF00
  statusMm2s := 0x1DF10
  lockBase := match k with
    | .ct => 0x1E000
    | .bt => 0x14000
  lockStride := 0x80
  lockOps := ⟨0x00, 0x20, 0x30, 0x40, 0x60, 0x70⟩
  mcfgBase := 0x3F000
  mcfgStride := 4
  scfgBase := 0x3F100
  scfgStride := 4
  slotBase := 0x3F200
  slotStride := 0x10
  slotStep := 4
  bd := .reference
  ctrlReset := 1
  ctrlEnable := 0
  startBd := 0
  mcfgEnable := 31
  mcfgPacket := 30
  mcfgDrop := 7
  mcfgConfig := 0
  scfgEnable := 31
  scfgPacket := 30
  slotId := 24
  slotMask := 16
  slotEnable := 8
  slotMsel := 4
  slotArb := 0

/-! ### `PortTable(kind)` (R305) -/

/-- The ports of a class: how many, and the flat id of index 0 (R305). -/
structure PortRange where
  count : Nat
  first : Nat
  deriving DecidableEq, Repr

/-- The ports of a tile kind in one direction (R305); a class the tile lacks has count 0. -/
structure PortTable where
  core : PortRange
  dma : PortRange
  ctrl : PortRange
  fifo : PortRange
  south : PortRange
  west : PortRange
  north : PortRange
  east : PortRange
  trace : PortRange
  deriving DecidableEq, Repr

/-- The ports of a class. -/
def PortTable.range (T : PortTable) : PortClass → PortRange
  | .core => T.core
  | .dma => T.dma
  | .ctrl => T.ctrl
  | .fifo => T.fifo
  | .south => T.south
  | .west => T.west
  | .north => T.north
  | .east => T.east
  | .trace => T.trace

/-- The number of ports: `NM(kind)` or `NS(kind)` (R305). -/
def PortTable.total (T : PortTable) : Nat :=
  T.core.count + T.dma.count + T.ctrl.count + T.fifo.count + T.south.count + T.west.count + T.north.count
    + T.east.count + T.trace.count

/-- The reference port tables (R305). -/
def PortTable.reference : TileKind → PortDir → PortTable
  | .ct, .master => ⟨⟨2, 0⟩, ⟨2, 2⟩, ⟨1, 4⟩, ⟨2, 5⟩, ⟨4, 7⟩, ⟨4, 11⟩, ⟨6, 15⟩, ⟨4, 21⟩, ⟨0, 0⟩⟩
  | .ct, .slave => ⟨⟨2, 0⟩, ⟨2, 2⟩, ⟨1, 4⟩, ⟨2, 5⟩, ⟨6, 7⟩, ⟨4, 13⟩, ⟨4, 17⟩, ⟨4, 21⟩, ⟨2, 25⟩⟩
  | .bt, .master => ⟨⟨0, 0⟩, ⟨0, 0⟩, ⟨1, 0⟩, ⟨2, 1⟩, ⟨6, 3⟩, ⟨4, 9⟩, ⟨6, 13⟩, ⟨4, 19⟩, ⟨0, 0⟩⟩
  | .bt, .slave => ⟨⟨0, 0⟩, ⟨0, 0⟩, ⟨1, 0⟩, ⟨2, 1⟩, ⟨8, 3⟩, ⟨4, 11⟩, ⟨4, 15⟩, ⟨4, 19⟩, ⟨1, 23⟩⟩

/-! ### The other parameters of R6 -/

/-- `P_REL_FREE` (R160): what a release of a free lock does. -/
inductive RelFree where
  | succeed | fail | both
  deriving DecidableEq, Repr

/-- `P_BD_INUSE_WRITE` (R269): what a host write to a descriptor a walker is executing does. -/
inductive BdInUse where
  | fault | snapshot
  deriving DecidableEq, Repr

/-- `addrGen2D` (R271): its reference instantiation, or left free but for its law (log 22). -/
inductive Gen where
  | reference | free
  deriving DecidableEq, Repr

/-- `mkHeader` and `hdrId` (R351): their reference instantiation, or any `mkHeader`, given by its values: the word at
`[type][id]` (log 22). -/
inductive Header where
  | reference
  | given (words : Vector (Vector Word 32) 32)
  deriving DecidableEq, Repr

/-- The bit that carries a lock request's success, one place per request kind in the order
AcqNV, AcqV0, AcqV1, RelNV, RelV0, RelV1 (`LOCK_OK_BIT(kind, op)`, R133). -/
abbrev OkBits := Vector (Fin 32) 6

/-- The parameters of R6.  Plain data, so that the machine holds them and a statement about every state is a statement
about every value of them (log 7). -/
structure Params where
  /-- `Layout(CT)` -/
  layoutCt : Layout
  /-- `Layout(BT)` -/
  layoutBt : Layout
  /-- `W_OFF` -/
  wOff : Nat
  /-- `DM_WORDS(CT)` -/
  dmWords : Nat
  /-- `PortTable(CT)`, masters -/
  mastersCt : PortTable
  /-- `PortTable(CT)`, slaves -/
  slavesCt : PortTable
  /-- `PortTable(BT)`, masters -/
  mastersBt : PortTable
  /-- `PortTable(BT)`, slaves -/
  slavesBt : PortTable
  /-- `P_REL_FREE` -/
  relFree : RelFree
  /-- `P_BD_INUSE_WRITE` -/
  bdInUse : BdInUse
  /-- `NO_VALUE` -/
  noValue : Nat
  /-- `N_ARB`, at most 8 since a selector has 3 bits -/
  nArb : Nat
  /-- `P_PORT_DEPTH`, at least 1 -/
  portDepth : Nat
  /-- `LOCK_OK_BIT(CT, op)` -/
  okBitCt : OkBits
  /-- `LOCK_OK_BIT(BT, op)` -/
  okBitBt : OkBits
  /-- `addrGen2D` -/
  addrGen : Gen
  /-- `mkHeader`, `hdrId` -/
  header : Header
  deriving DecidableEq, Repr

/-- The reference values of R6. -/
def Params.reference : Params where
  layoutCt := .reference .ct
  layoutBt := .reference .bt
  wOff := 18
  dmWords := 8192
  mastersCt := .reference .ct .master
  slavesCt := .reference .ct .slave
  mastersBt := .reference .bt .master
  slavesBt := .reference .bt .slave
  relFree := .both
  bdInUse := .fault
  noValue := 0xFF
  nArb := 6
  portDepth := 2
  okBitCt := .replicate 6 0
  okBitBt := .replicate 6 0
  addrGen := .reference
  header := .reference

/-- `Layout(kind)`. -/
def Params.layout (p : Params) : TileKind → Layout
  | .ct => p.layoutCt
  | .bt => p.layoutBt

/-- `PortTable(kind)` in one direction. -/
def Params.ports (p : Params) : TileKind → PortDir → PortTable
  | .ct, .master => p.mastersCt
  | .ct, .slave => p.slavesCt
  | .bt, .master => p.mastersBt
  | .bt, .slave => p.slavesBt

/-- `NM(kind)`: the number of master ports (R305). -/
def Params.nMasters (p : Params) (k : TileKind) : Nat := (p.ports k .master).total

/-- `NS(kind)`: the number of slave ports (R305). -/
def Params.nSlaves (p : Params) (k : TileKind) : Nat := (p.ports k .slave).total

/-- The slave port a memory-to-stream channel feeds: `(dma, c - 2)` of a compute tile (R274). -/
def Params.channelSlave (p : Params) (c : ChIx) : SlaveId := Fin.ofNat 128 (p.slavesCt.dma.first + (c.val - 2))

/-- The master port a stream-to-memory channel drains: `(dma, c)` of a compute tile (R274). -/
def Params.channelMaster (p : Params) (c : ChIx) : MasterId := Fin.ofNat 128 (p.mastersCt.dma.first + c.val)

/-- The power-on parameters `P_CH_POR`, `P_LOCK_POR` and `P_SS_POR` of R6, as the words the registers hold. -/
structure PowerOn where
  ctrl : Word
  startBd : Word
  lockHeld : Bool
  lockValue : Bool
  mcfg : Word
  scfg : Word
  slot : Word
  deriving DecidableEq, Repr

/-- The reference power-on values of R6: channels out of reset and disabled, locks free with value 0, every port and
slot disabled. -/
def PowerOn.reference : PowerOn where
  ctrl := 0
  startBd := 0
  lockHeld := false
  lockValue := false
  mcfg := 0
  scfg := 0
  slot := 0

/-! ### Free values -/

/-- A free 32-bit word (`choose x ∈ u32`, R10; R29, R73, R140).  No value is known of it. -/
opaque freeWord : Nat → Word

/-- A free choice of one of two (`choose`, R10; R160, R310). -/
opaque freeBit : Nat → Bool

/-- A free natural number (`choose`, R10; R163, R350, R83). -/
opaque freeNat : Nat → Nat

/-- The free order of the agents (R156, R316, R385): whose turn is drawn where no turn is directed (log 2). -/
opaque freeTurn : Nat → Turn

/-- The arguments of `addrGen2D` but for the word index (R270, R271): a base word address and the six stored 2D fields. -/
structure Addr2D where
  base : Nat
  xIncr : Nat
  xWrap : Nat
  xOff : Nat
  yIncr : Nat
  yWrap : Nat
  yOff : Nat
  deriving DecidableEq, Repr

/-- The address generator beyond its law where `addrGen2D` is left free (R271): fields, word index. -/
opaque freeAddr : Addr2D → Nat → Nat

/-- `hdrId` of a word that no `mkHeader` builds, where the pair is not the reference one (R351). -/
opaque freeHdrId : Word → BitVec 5

end Sys2Proof.Config
end

