-- ==== Sys2Proof/WellFormed.lean ====
section
/-! DEFINITION. Which instructions are well formed under given parameters on a fabric whose tiles have given kinds: the `tile_kind` and
`constraint` columns of spec/opcode_table.json (R101), and the agents a tile has (R259, R314). -/

namespace Sys2Proof

/-- Slave port `p` is fed by a walker, not by the environment: the `dma` slaves of a CT tile (R274, R314). -/
def isDmaSlave (q : Config.Params) (k : TileKind) (p : SlaveId) : Bool :=
  k == .ct && (p == q.channelSlave 2 || p == q.channelSlave 3)

/-- Master port `m` is drained by a walker, not by the environment: the `dma` masters of a CT tile (R274, R314). -/
def isDmaMaster (q : Config.Params) (k : TileKind) (m : MasterId) : Bool :=
  k == .ct && (m == q.channelMaster 0 || m == q.channelMaster 1)

/-- An environment action is one the tile's environment agents have (R314; data memory only on CT, R34). -/
def EnvAction.wf (q : Config.Params) (k : TileKind) : EnvAction → Bool
  | .push p _ => decide (p.val < q.nSlaves k) && !isDmaSlave q k p
  | .pop m => decide (m.val < q.nMasters k) && !isDmaMaster q k m
  | .lock _ _ _ => true
  | .read _ wa => k == .ct && decide (wa < q.dmWords)
  | .write _ wa _ => k == .ct && decide (wa < q.dmWords)

/-- The well-formedness check (R101: `tile_kind` and `constraint` of the instruction's row). -/
def Instr.wf (q : Config.Params) (kind : TileId → TileKind) : Instr → Bool
  | .dmWr t wa _ => kind t == .ct && decide (wa < q.dmWords)
  | .dmRd t wa => kind t == .ct && decide (wa < q.dmWords)
  | .bdWr t _ _ _ => kind t == .ct
  | .bdRd t _ _ => kind t == .ct
  | .chCtrlWr t _ _ => kind t == .ct
  | .chCtrlRd t _ => kind t == .ct
  | .chStartBdWr t _ _ => kind t == .ct
  | .chStartBdRd t _ => kind t == .ct
  | .chStatusRd t _ => kind t == .ct
  | .chStatusWr t _ _ => kind t == .ct
  | .lockAcqNvRd t _ => kind t == .ct
  | .lockAcqV0Rd t _ => kind t == .ct
  | .lockAcqV1Rd t _ => kind t == .ct
  | .lockRelNvRd t _ => kind t == .ct
  | .lockRelV0Rd t _ => kind t == .ct
  | .lockRelV1Rd t _ => kind t == .ct
  | .lockWr t _ op _ => kind t == .ct && decide (op < (q.layout .ct).lockStride) && op % 4 == 0
  | .lockAcqNvRdBt t _ => kind t == .bt
  | .lockAcqV0RdBt t _ => kind t == .bt
  | .lockAcqV1RdBt t _ => kind t == .bt
  | .lockRelNvRdBt t _ => kind t == .bt
  | .lockRelV0RdBt t _ => kind t == .bt
  | .lockRelV1RdBt t _ => kind t == .bt
  | .lockWrBt t _ op _ => kind t == .bt && decide (op < (q.layout .bt).lockStride) && op % 4 == 0
  | .mcfgWr t m _ => decide (m.val < q.nMasters (kind t))
  | .mcfgRd t m => decide (m.val < q.nMasters (kind t))
  | .scfgWr t p _ => decide (p.val < q.nSlaves (kind t))
  | .scfgRd t p => decide (p.val < q.nSlaves (kind t))
  | .slotWr t p _ _ => decide (p.val < q.nSlaves (kind t))
  | .slotRd t p _ => decide (p.val < q.nSlaves (kind t))
  | .walkStart t _ => kind t == .ct
  | .walkAbandon t _ => kind t == .ct
  | .walkFetch t _ => kind t == .ct
  | .walkAcquire t _ => kind t == .ct
  | .walkHeader t _ => kind t == .ct
  | .walkTransfer t _ => kind t == .ct
  | .walkRelease t _ => kind t == .ct
  | .walkAdvance t _ => kind t == .ct
  | .swCircuit t p => decide (p.val < q.nSlaves (kind t))
  | .swPktStart t p => decide (p.val < q.nSlaves (kind t))
  | .swPktForward t p => decide (p.val < q.nSlaves (kind t))
  | .envStep t act => act.wf q (kind t)
  | .poll _ _ _ _ _ => true
  | .lockAcquire _ _ _ _ => true
  | .lockRelease _ _ _ _ => true
  | .bdSetLock e _ _ _ _ _ _ _ => kind e == .ct
  | .bdSet2D e _ _ _ _ _ => kind e == .ct
  | .bdSetInterleave e _ _ _ _ _ => kind e == .ct
  | .bdSetAddrLenMode e _ _ _ _ _ _ => kind e == .ct
  | .bdSetNext e _ _ => kind e == .ct
  | .bdSetPacket e _ _ _ _ => kind e == .ct
  | .bdClear e _ => kind e == .ct
  | .bdClearAll e => kind e == .ct
  | .bdCommit e _ => kind e == .ct
  | .chControl e _ _ _ => kind e == .ct
  | .chSetStartBd e _ _ => kind e == .ct
  | .chReset e _ => kind e == .ct
  | .chResetAll e => kind e == .ct
  | .dmaInitialize e _ => kind e == .ct
  | .ssPortId _ _ _ _ => true
  | .ssConfigureMaster _ _ _ _ _ _ => true
  | .ssConfigureSlave _ _ _ _ _ => true
  | .ssConnectCircuit _ _ _ _ _ _ => true
  | .ssConfigureSlot _ _ _ _ _ _ _ _ _ => true
  | .ssMstrPktConfig _ _ _ => true

end Sys2Proof
end

