-- ==== Sys2Proof/Decode.lean ====
section
/-! DEFINITION. The decoder and the encoder (spec/30_encoding.md): transactions by tile-local offset (R100 to R103),
commands by their written form (R145, R146), agent steps by the agent's turn.  Total; what no row gives is rejected by name. -/

namespace Sys2Proof

open Config (Layout Params)

/-! ### Tile-local offsets (R21, R103) -/

/-- A register of a tile, or a data-memory word, as an offset selects it (R103); `lock l op` is the lock-request region. -/
inductive Reg where
  | dm (wa : Nat)
  | bd (n : BdIx) (k : BdWordIx)
  | ctrl (c : ChIx)
  | startBd (c : ChIx)
  | status (i : Fin 2)
  | lock (l : LockIx) (op : Nat)
  | mcfg (m : MasterId)
  | scfg (p : SlaveId)
  | slot (p : SlaveId) (k : SlotIx)
  deriving DecidableEq, Repr

/-- Byte offset of data-memory word `wa` (R89). -/
def dmOff (L : Layout) (wa : Nat) : Nat := L.dmBase + 4 * wa

/-- Byte offset of word `k` of buffer descriptor `n` (R24, R190). -/
def bdOff (L : Layout) (n : BdIx) (k : BdWordIx) : Nat := L.bdBase + L.bdStride * n.val + 4 * k.val

/-- Byte offset of channel `c`'s control register (R250). -/
def ctrlOff (L : Layout) (c : Nat) : Nat := L.ctrlBase + L.ctrlStride * c

/-- Byte offset of channel `c`'s start-BD register (R250). -/
def startBdOff (L : Layout) (c : Nat) : Nat := L.startBdBase + L.startBdStride * c

/-- Byte offset of a channel status register: `0` S2MM, `1` MM2S (R103). -/
def statusOff (L : Layout) (i : Fin 2) : Nat := if i = 0 then L.statusS2mm else L.statusMm2s

/-- The sub-offset `op` of a lock request (R103). -/
def lockOp (L : Layout) : LockKind → Nat
  | .relNV => L.lockOps.relNV
  | .relV false => L.lockOps.relV0
  | .relV true => L.lockOps.relV1
  | .acqNV => L.lockOps.acqNV
  | .acqV false => L.lockOps.acqV0
  | .acqV true => L.lockOps.acqV1

/-- Byte offset of a place in the lock-request region (R103, R161). -/
def lockRegionOff (L : Layout) (l : LockIx) (op : Nat) : Nat := L.lockBase + L.lockStride * l.val + op

/-- `lockOff(kind, l, dir, v)` (R164). -/
def lockOff (L : Layout) (l : LockIx) (q : LockKind) : Nat := lockRegionOff L l (lockOp L q)

/-- Byte offset of master configuration register `m` (R301). -/
def mcfgOff (L : Layout) (m : Nat) : Nat := L.mcfgBase + L.mcfgStride * m

/-- Byte offset of slave configuration register `p` (R303). -/
def scfgOff (L : Layout) (p : Nat) : Nat := L.scfgBase + L.scfgStride * p

/-- Byte offset of slot `k` of slave `p` (R341, R345). -/
def slotOff (L : Layout) (p k : Nat) : Nat := L.slotBase + L.slotStride * p + L.slotStep * k

/-- The offset of a register (R21). -/
def Reg.off (L : Layout) : Reg → Nat
  | .dm wa => dmOff L wa
  | .bd n k => bdOff L n k
  | .ctrl c => ctrlOff L c
  | .startBd c => startBdOff L c
  | .status i => statusOff L i
  | .lock l op => lockRegionOff L l op
  | .mcfg m => mcfgOff L m
  | .scfg p => scfgOff L p
  | .slot p k => slotOff L p k

/-- The registers a tile of a kind has: data memory, descriptors and channels on CT only, ports as `PortTable` counts them
(R34, R141, R190, R250). -/
def Reg.mapped (q : Params) (k : TileKind) : Reg → Bool
  | .dm wa => k == .ct && decide (wa < q.dmWords)
  | .bd _ _ => k == .ct
  | .ctrl _ => k == .ct
  | .startBd _ => k == .ct
  | .status _ => k == .ct
  | .lock _ op => decide (op < (q.layout k).lockStride)
  | .mcfg m => decide (m.val < q.nMasters k)
  | .scfg p => decide (p.val < q.nSlaves k)
  | .slot p _ => decide (p.val < q.nSlaves k)

/-! ### Decoding an offset -/

/-- The port ids below a bound. -/
def portsBelow (n : Nat) : List (Fin 128) := (List.finRange 128).filter fun x => decide (x.val < n)

/-- The registers of a tile of a kind, but for data memory and the lock-request region. -/
def plainRegs (q : Params) (k : TileKind) : List Reg :=
  (if k = .ct then
    ((List.finRange 16).flatMap fun n => (List.finRange 7).map (Reg.bd n)) ++ (List.finRange 4).map .ctrl
      ++ (List.finRange 4).map .startBd ++ (List.finRange 2).map .status
  else [])
  ++ (portsBelow (q.nMasters k)).map .mcfg ++ (portsBelow (q.nSlaves k)).map .scfg
  ++ ((portsBelow (q.nSlaves k)).flatMap fun p => (List.finRange 4).map (Reg.slot p))

/-- The lock whose request region holds an offset. -/
def lockAt (L : Layout) (o : Nat) : Option LockIx :=
  (List.finRange 16).find? fun l => decide (lockRegionOff L l 0 ≤ o) && decide (o < lockRegionOff L l 0 + L.lockStride)

/-- The register at an offset (R103); none where the tile has none there (R79, R141). -/
def regAt (q : Params) (k : TileKind) (o : Nat) : Option Reg :=
  let L := q.layout k
  if k = .ct ∧ L.dmBase ≤ o ∧ (o - L.dmBase) % 4 = 0 ∧ (o - L.dmBase) / 4 < q.dmWords then some (.dm ((o - L.dmBase) / 4))
  else match lockAt L o with
    | some l => some (.lock l (o - lockRegionOff L l 0))
    | none => (plainRegs q k).find? fun r => r.off L == o

/-- The six kinds of request. -/
def lockKinds : List LockKind := [.acqNV, .acqV false, .acqV true, .relNV, .relV false, .relV true]

/-- The request kind of a lock sub-offset, none for a sub-offset other than the six (R103, R161). -/
def lockKindOf (L : Layout) (op : Nat) : Option LockKind := lockKinds.find? fun a => lockOp L a == op

/-- The CT lock-request row of a kind (R153 to R159). -/
def lockRdCt (t : TileId) (l : LockIx) : LockKind → Instr
  | .acqNV => .lockAcqNvRd t l
  | .acqV false => .lockAcqV0Rd t l
  | .acqV true => .lockAcqV1Rd t l
  | .relNV => .lockRelNvRd t l
  | .relV false => .lockRelV0Rd t l
  | .relV true => .lockRelV1Rd t l

/-- The BT lock-request row of a kind (R153 to R159). -/
def lockRdBt (t : TileId) (l : LockIx) : LockKind → Instr
  | .acqNV => .lockAcqNvRdBt t l
  | .acqV false => .lockAcqV0RdBt t l
  | .acqV true => .lockAcqV1RdBt t l
  | .relNV => .lockRelNvRdBt t l
  | .relV false => .lockRelV0RdBt t l
  | .relV true => .lockRelV1RdBt t l

/-- The row of a write to a register. -/
def writeRow (k : TileKind) (t : TileId) (v : Word) : Reg → Instr
  | .dm wa => .dmWr t wa v
  | .bd n j => .bdWr t n j v
  | .ctrl c => .chCtrlWr t c v
  | .startBd c => .chStartBdWr t c v
  | .status i => .chStatusWr t i v
  | .lock l op => match k with
    | .ct => .lockWr t l op v
    | .bt => .lockWrBt t l op v
  | .mcfg m => .mcfgWr t m v
  | .scfg p => .scfgWr t p v
  | .slot p j => .slotWr t p j v

/-- The row of a read of a register; none for a place of the lock-request region that is no request (R161). -/
def readRow (L : Layout) (k : TileKind) (t : TileId) : Reg → Option Instr
  | .dm wa => some (.dmRd t wa)
  | .bd n j => some (.bdRd t n j)
  | .ctrl c => some (.chCtrlRd t c)
  | .startBd c => some (.chStartBdRd t c)
  | .status i => some (.chStatusRd t i)
  | .lock l op => (lockKindOf L op).map fun a => match k with
    | .ct => lockRdCt t l a
    | .bt => lockRdBt t l a
  | .mcfg m => some (.mcfgRd t m)
  | .scfg p => some (.scfgRd t p)
  | .slot p j => some (.slotRd t p j)

/-- The row a 32-bit aligned transaction selects (R101); none where no row maps the offset (R79, R141). -/
def decodeOff (q : Params) (k : TileKind) (t : TileId) (w : Bool) (o : Nat) (v : Word) : Option Instr :=
  if o < 2 ^ q.wOff then
    (regAt q k o).bind fun r => if w then some (writeRow k t v r) else readRow (q.layout k) k t r
  else none

/-! ### Written commands (R146) -/

/-- An argument of a written line: a number, a bare name, a port `(class, index)`, a tile or an engine. -/
inductive Arg where
  | num (n : Nat) | name (w : String) | port (cls : String) (i : Nat) | tile (t : TileId) | eng (e : TileId)
  deriving DecidableEq, Repr

/-- A written command: its name and its arguments (R146). -/
structure Line where
  name : String
  args : List Arg
  deriving DecidableEq, Repr

def slotArgOf (w : String) : SlotArg := if w = "A" then .a else if w = "B" then .b else .other
def slotArgName : SlotArg → String
  | .a => "A"
  | .b => "B"
  | .other => "C"

def axisArgOf (w : String) : AxisArg := if w = "X" then .x else if w = "Y" then .y else .other
def axisArgName : AxisArg → String
  | .x => "X"
  | .y => "Y"
  | .other => "Z"

/-- A lock value is written `0`, `1` or `none` (R146). -/
def valArgOf : Arg → Option ValArg
  | .num n => some (.num n)
  | .name w => if w = "none" then some .none else none
  | _ => none
def valArgTok : ValArg → Arg
  | .num n => .num n
  | .none => .name "none"

/-- A channel is written by its role or its number (R146). -/
def chanOf : Arg → Option Nat
  | .num n => some n
  | .name w =>
    if w = "S2MM0" then some 0 else if w = "S2MM1" then some 1
    else if w = "MM2S0" then some 2 else if w = "MM2S1" then some 3 else none
  | _ => none

/-- The names of the direction classes (R300, R305). -/
def classOf (w : String) : Option PortClass :=
  if w = "core" then some .core else if w = "dma" then some .dma else if w = "ctrl" then some .ctrl
  else if w = "fifo" then some .fifo else if w = "south" then some .south else if w = "west" then some .west
  else if w = "north" then some .north else if w = "east" then some .east else if w = "trace" then some .trace
  else none
def className : PortClass → String
  | .core => "core"
  | .dma => "dma"
  | .ctrl => "ctrl"
  | .fifo => "fifo"
  | .south => "south"
  | .west => "west"
  | .north => "north"
  | .east => "east"
  | .trace => "trace"

def kindOf (w : String) : Option TileKind := if w = "CT" then some .ct else if w = "BT" then some .bt else none
def kindName : TileKind → String
  | .ct => "CT"
  | .bt => "BT"

def dirOf (w : String) : Option PortDir :=
  if w = "master" then some .master else if w = "slave" then some .slave else none
def dirName : PortDir → String
  | .master => "master"
  | .slave => "slave"

/-- `poll`, `lock.acquire` and `lock.release` lines (R163, R165, R166). -/
def decodeLockLine (l : Line) : Option Instr :=
  match l.args with
  | [.tile t, .num o, .num m, .num x, .num u] =>
    if l.name = "poll" then some (.poll t o m x u) else none
  | [.tile t, .num k, v, .num u] =>
    if l.name = "lock.acquire" then (valArgOf v).map fun v => .lockAcquire t k v u
    else if l.name = "lock.release" then (valArgOf v).map fun v => .lockRelease t k v u
    else none
  | _ => none

/-- `bd.*` lines (R194 to R203). -/
def decodeBdLine (l : Line) : Option Instr :=
  match l.args with
  | [.eng e] => if l.name = "bd.clearAll" then some (.bdClearAll e) else none
  | [.eng e, .num n] =>
    if l.name = "bd.clear" then some (.bdClear e n)
    else if l.name = "bd.commit" then some (.bdCommit e n)
    else none
  | [.eng e, .num n, .num a] => if l.name = "bd.setNext" then some (.bdSetNext e n a) else none
  | [.eng e, .num n, .num a, .num b, .num c] => if l.name = "bd.setPacket" then some (.bdSetPacket e n a b c) else none
  | [.eng e, .num n, .name x, .num a, .num b, .num c] =>
    if l.name = "bd.set2D" then some (.bdSet2D e n (axisArgOf x) a b c) else none
  | [.eng e, .num n, .num a, .name x, .num b, .num c] =>
    if l.name = "bd.setInterleave" then some (.bdSetInterleave e n a (slotArgOf x) b c) else none
  | [.eng e, .num n, .num a, .num b, .num c, .num d, .num f] =>
    if l.name = "bd.setAddrLenMode" then some (.bdSetAddrLenMode e n a b c d f) else none
  | [.eng e, .num n, .name x, .num a, .num b, rv, .num c, av] =>
    if l.name = "bd.setLock" then
      (valArgOf rv).bind fun rv => (valArgOf av).map fun av => .bdSetLock e n (slotArgOf x) a b rv c av
    else none
  | _ => none

/-- `ch.*` and `dma.*` lines (R280 to R284). -/
def decodeChLine (l : Line) : Option Instr :=
  match l.args with
  | [.eng e] => if l.name = "ch.resetAll" then some (.chResetAll e) else none
  | [.eng e, c] =>
    if l.name = "ch.reset" then (chanOf c).map fun c => .chReset e c
    else if l.name = "dma.initialize" then
      match c with
      | .num f => some (.dmaInitialize e f)
      | _ => none
    else none
  | [.eng e, c, .num b] => if l.name = "ch.setStartBd" then (chanOf c).map fun c => .chSetStartBd e c b else none
  | [.eng e, c, .num a, .num b] => if l.name = "ch.control" then (chanOf c).map fun c => .chControl e c a b else none
  | _ => none

/-- `ss.*` lines (R306 to R309, R343, R344). -/
def decodeSsLine (l : Line) : Option Instr :=
  match l.args with
  | [.name k, .name d, .name c, .num i] =>
    if l.name = "ss.portId" then
      (kindOf k).bind fun k => (dirOf d).bind fun d => (classOf c).map fun c => .ssPortId k d c i
    else none
  | [.tile t, .port c i, .num a, .num b, .num f] =>
    if l.name = "ss.configureMaster" then (classOf c).map fun c => .ssConfigureMaster t c i a b f else none
  | [.tile t, .port c i, .num a, .num b] =>
    if l.name = "ss.configureSlave" then (classOf c).map fun c => .ssConfigureSlave t c i a b else none
  | [.tile t, .port c i, .port d j, .num a] =>
    if l.name = "ss.connectCircuit" then
      (classOf c).bind fun c => (classOf d).map fun d => .ssConnectCircuit t c i d j a
    else none
  | [.tile t, .port c i, .num k, .num a, .num b, .num m, .num f, .num g] =>
    if l.name = "ss.configureSlot" then (classOf c).map fun c => .ssConfigureSlot t c i k a b m f g else none
  | [.num a, .num b, .num c] => if l.name = "ss.mstrPktConfig" then some (.ssMstrPktConfig a b c) else none
  | _ => none

/-- The command a written line stands for (R146); none where it stands for none. -/
def decodeLine (l : Line) : Option Instr :=
  ((decodeLockLine l).orElse fun _ => decodeBdLine l).orElse fun _ =>
    (decodeChLine l).orElse fun _ => decodeSsLine l

/-! ### Agents' turns -/

/-- The row an agent's step stands for. -/
def decodeAgent : AgentStep → Instr
  | .walk t c .start => .walkStart t c
  | .walk t c .abandon => .walkAbandon t c
  | .walk t c .fetch => .walkFetch t c
  | .walk t c .acquire => .walkAcquire t c
  | .walk t c .header => .walkHeader t c
  | .walk t c .transfer => .walkTransfer t c
  | .walk t c .release => .walkRelease t c
  | .walk t c .advance => .walkAdvance t c
  | .switch t p .circuit => .swCircuit t p
  | .switch t p .pktStart => .swPktStart t p
  | .switch t p .pktForward => .swPktForward t p
  | .env t act => .envStep t act

/-! ### Raw forms, decoder, encoder -/

/-- The raw form of an instruction: a bus transaction (tile, access width in bits, write flag, offset, data), a written
command, or an agent's turn. -/
inductive Raw where
  | bus (t : TileId) (width : Nat) (w : Bool) (off : Nat) (v : Word)
  | line (l : Line)
  | agent (a : AgentStep)
  deriving DecidableEq, Repr

/-- Why a raw form is no instruction: an access that is not one aligned 32-bit word (R71), an offset no row maps
(R79, R141), or a line that is no command of R146. -/
inductive DecodeError where
  | accessWidth (off : Nat) | unmapped (off : Nat) | badLine
  deriving DecidableEq, Repr

/-- The decoder, under given parameters on a fabric whose tiles have the given kinds (R71, R101, R146). -/
def decode (q : Params) (kind : TileId → TileKind) : Raw → Except DecodeError Instr
  | .bus t width w off v =>
    if width ≠ 32 ∨ off % 4 ≠ 0 then .error (.accessWidth off)
    else match decodeOff q (kind t) t w off v with
      | some i => .ok i
      | none => .error (.unmapped off)
  | .line l =>
    match decodeLine l with
    | some i => .ok i
    | none => .error .badLine
  | .agent a => .ok (decodeAgent a)

/-- A 32-bit read at an offset. -/
def busRd (t : TileId) (o : Nat) : Raw := .bus t 32 false o 0

/-- A 32-bit write at an offset. -/
def busWr (t : TileId) (o : Nat) (v : Word) : Raw := .bus t 32 true o v

/-- The encoder, from R103 for transactions and R146 for commands. -/
def encode (q : Params) (kind : TileId → TileKind) : Instr → Raw
  | .dmWr t wa v => busWr t (dmOff (q.layout (kind t)) wa) v
  | .dmRd t wa => busRd t (dmOff (q.layout (kind t)) wa)
  | .bdWr t n k v => busWr t (bdOff (q.layout (kind t)) n k) v
  | .bdRd t n k => busRd t (bdOff (q.layout (kind t)) n k)
  | .chCtrlWr t c v => busWr t (ctrlOff (q.layout (kind t)) c) v
  | .chCtrlRd t c => busRd t (ctrlOff (q.layout (kind t)) c)
  | .chStartBdWr t c v => busWr t (startBdOff (q.layout (kind t)) c) v
  | .chStartBdRd t c => busRd t (startBdOff (q.layout (kind t)) c)
  | .chStatusRd t i => busRd t (statusOff (q.layout (kind t)) i)
  | .chStatusWr t i v => busWr t (statusOff (q.layout (kind t)) i) v
  | .lockAcqNvRd t l => busRd t (lockOff (q.layout (kind t)) l .acqNV)
  | .lockAcqV0Rd t l => busRd t (lockOff (q.layout (kind t)) l (.acqV false))
  | .lockAcqV1Rd t l => busRd t (lockOff (q.layout (kind t)) l (.acqV true))
  | .lockRelNvRd t l => busRd t (lockOff (q.layout (kind t)) l .relNV)
  | .lockRelV0Rd t l => busRd t (lockOff (q.layout (kind t)) l (.relV false))
  | .lockRelV1Rd t l => busRd t (lockOff (q.layout (kind t)) l (.relV true))
  | .lockWr t l op v => busWr t (lockRegionOff (q.layout (kind t)) l op) v
  | .lockAcqNvRdBt t l => busRd t (lockOff (q.layout (kind t)) l .acqNV)
  | .lockAcqV0RdBt t l => busRd t (lockOff (q.layout (kind t)) l (.acqV false))
  | .lockAcqV1RdBt t l => busRd t (lockOff (q.layout (kind t)) l (.acqV true))
  | .lockRelNvRdBt t l => busRd t (lockOff (q.layout (kind t)) l .relNV)
  | .lockRelV0RdBt t l => busRd t (lockOff (q.layout (kind t)) l (.relV false))
  | .lockRelV1RdBt t l => busRd t (lockOff (q.layout (kind t)) l (.relV true))
  | .lockWrBt t l op v => busWr t (lockRegionOff (q.layout (kind t)) l op) v
  | .mcfgWr t m v => busWr t (mcfgOff (q.layout (kind t)) m) v
  | .mcfgRd t m => busRd t (mcfgOff (q.layout (kind t)) m)
  | .scfgWr t p v => busWr t (scfgOff (q.layout (kind t)) p) v
  | .scfgRd t p => busRd t (scfgOff (q.layout (kind t)) p)
  | .slotWr t p k v => busWr t (slotOff (q.layout (kind t)) p k) v
  | .slotRd t p k => busRd t (slotOff (q.layout (kind t)) p k)
  | .walkStart t c => .agent (.walk t c .start)
  | .walkAbandon t c => .agent (.walk t c .abandon)
  | .walkFetch t c => .agent (.walk t c .fetch)
  | .walkAcquire t c => .agent (.walk t c .acquire)
  | .walkHeader t c => .agent (.walk t c .header)
  | .walkTransfer t c => .agent (.walk t c .transfer)
  | .walkRelease t c => .agent (.walk t c .release)
  | .walkAdvance t c => .agent (.walk t c .advance)
  | .swCircuit t p => .agent (.switch t p .circuit)
  | .swPktStart t p => .agent (.switch t p .pktStart)
  | .swPktForward t p => .agent (.switch t p .pktForward)
  | .envStep t act => .agent (.env t act)
  | .poll t off m x u => .line ⟨"poll", [.tile t, .num off, .num m, .num x, .num u]⟩
  | .lockAcquire t l v u => .line ⟨"lock.acquire", [.tile t, .num l, valArgTok v, .num u]⟩
  | .lockRelease t l v u => .line ⟨"lock.release", [.tile t, .num l, valArgTok v, .num u]⟩
  | .bdSetLock e n x a b rv c av =>
    .line ⟨"bd.setLock", [.eng e, .num n, .name (slotArgName x), .num a, .num b, valArgTok rv, .num c, valArgTok av]⟩
  | .bdSet2D e n x a b c => .line ⟨"bd.set2D", [.eng e, .num n, .name (axisArgName x), .num a, .num b, .num c]⟩
  | .bdSetInterleave e n a x b c =>
    .line ⟨"bd.setInterleave", [.eng e, .num n, .num a, .name (slotArgName x), .num b, .num c]⟩
  | .bdSetAddrLenMode e n a b c d f =>
    .line ⟨"bd.setAddrLenMode", [.eng e, .num n, .num a, .num b, .num c, .num d, .num f]⟩
  | .bdSetNext e n a => .line ⟨"bd.setNext", [.eng e, .num n, .num a]⟩
  | .bdSetPacket e n a b c => .line ⟨"bd.setPacket", [.eng e, .num n, .num a, .num b, .num c]⟩
  | .bdClear e n => .line ⟨"bd.clear", [.eng e, .num n]⟩
  | .bdClearAll e => .line ⟨"bd.clearAll", [.eng e]⟩
  | .bdCommit e n => .line ⟨"bd.commit", [.eng e, .num n]⟩
  | .chControl e c a b => .line ⟨"ch.control", [.eng e, .num c, .num a, .num b]⟩
  | .chSetStartBd e c b => .line ⟨"ch.setStartBd", [.eng e, .num c, .num b]⟩
  | .chReset e c => .line ⟨"ch.reset", [.eng e, .num c]⟩
  | .chResetAll e => .line ⟨"ch.resetAll", [.eng e]⟩
  | .dmaInitialize e f => .line ⟨"dma.initialize", [.eng e, .num f]⟩
  | .ssPortId k d c i => .line ⟨"ss.portId", [.name (kindName k), .name (dirName d), .name (className c), .num i]⟩
  | .ssConfigureMaster t c i a b f =>
    .line ⟨"ss.configureMaster", [.tile t, .port (className c) i, .num a, .num b, .num f]⟩
  | .ssConfigureSlave t c i a b => .line ⟨"ss.configureSlave", [.tile t, .port (className c) i, .num a, .num b]⟩
  | .ssConnectCircuit t c i d j a =>
    .line ⟨"ss.connectCircuit", [.tile t, .port (className c) i, .port (className d) j, .num a]⟩
  | .ssConfigureSlot t c i k a b m f g =>
    .line ⟨"ss.configureSlot", [.tile t, .port (className c) i, .num k, .num a, .num b, .num m, .num f, .num g]⟩
  | .ssMstrPktConfig a b c => .line ⟨"ss.mstrPktConfig", [.num a, .num b, .num c]⟩

/-! ### The written form of a transaction or a command (R145, R146) -/

/-- The tokens of a written line. -/
inductive Tok where
  | word (w : List Char) | comma | lpar | rpar | equals
  deriving DecidableEq, Repr

/-- A character of a name or a number. -/
def isWordChar (c : Char) : Bool := c.isAlphanum || c == '.' || c == '_'

/-- The word gathered so far, last character first. -/
def flushWord (acc : List Char) : List Tok := if acc.isEmpty then [] else [.word acc.reverse]

/-- Split a line into tokens; none where a character belongs to no token. -/
def lexLine : List Char → List Char → Option (List Tok)
  | [], acc => some (flushWord acc)
  | c :: cs, acc =>
    if isWordChar c then lexLine cs (c :: acc)
    else if c = ' ' then (lexLine cs []).map (flushWord acc ++ ·)
    else if c = ',' then (lexLine cs []).map (flushWord acc ++ .comma :: ·)
    else if c = '(' then (lexLine cs []).map (flushWord acc ++ .lpar :: ·)
    else if c = ')' then (lexLine cs []).map (flushWord acc ++ .rpar :: ·)
    else if c = '=' then (lexLine cs []).map (flushWord acc ++ .equals :: ·)
    else none

/-- The value of a digit in a base. -/
def digitOf (base : Nat) (c : Char) : Option Nat :=
  let d := if c.isDigit then c.toNat - 48 else if 'a' ≤ c ∧ c ≤ 'f' then c.toNat - 87
    else if 'A' ≤ c ∧ c ≤ 'F' then c.toNat - 55 else base
  if d < base then some d else none

/-- The number a digit string writes, after the digits already read. -/
def digitsOf (base : Nat) : List Char → Nat → Option Nat
  | [], n => some n
  | c :: cs, n => (digitOf base c).bind fun d => digitsOf base cs (base * n + d)

/-- A number: decimal, `0x` hexadecimal (R145) or `0b` binary (95_test_vectors.md). -/
def numberOf : List Char → Option Nat
  | '0' :: 'x' :: c :: cs => digitsOf 16 (c :: cs) 0
  | '0' :: 'b' :: c :: cs => digitsOf 2 (c :: cs) 0
  | c :: cs => digitsOf 10 (c :: cs) 0
  | [] => none

/-- An argument: a number, a tile `T`, `T0` or `T1`, an engine `E`, `E0` or `E1`, else a bare name (log 25). -/
def argOf (w : List Char) : Arg :=
  match numberOf w with
  | some n => .num n
  | none =>
    match w with
    | ['T'] => .tile 0
    | ['T', '0'] => .tile 0
    | ['T', '1'] => .tile 1
    | ['E'] => .eng 0
    | ['E', '0'] => .eng 0
    | ['E', '1'] => .eng 1
    | _ => .name (String.ofList w)

/-- Arguments separated by commas; a port is written `(class, index)`. -/
def parseArgs : List Tok → Option (List Arg)
  | [.word w] => some [argOf w]
  | .word w :: .comma :: rest => (parseArgs rest).map (argOf w :: ·)
  | [.lpar, .word c, .comma, .word i, .rpar] => (numberOf i).map fun n => [.port (String.ofList c) n]
  | .lpar :: .word c :: .comma :: .word i :: .rpar :: .comma :: rest =>
    (numberOf i).bind fun n => (parseArgs rest).map (.port (String.ofList c) n :: ·)
  | _ => none

/-- A line of tokens; a leading `x =` names the result and has no other meaning (R145). -/
def parseLine : List Tok → Option Line
  | .word _ :: .equals :: .word f :: rest => (parseArgs rest).map fun a => ⟨String.ofList f, a⟩
  | .word f :: rest => (parseArgs rest).map fun a => ⟨String.ofList f, a⟩
  | _ => none

/-- The raw form of a written line: `wr T, off, v` and `rd T, off` are transactions (R145), the rest commands (R146).
A `wr` whose data is no `u32` (R102) is no transaction (log 25). -/
def rawOfText (text : String) : Option Raw :=
  ((lexLine text.toList []).bind parseLine).bind fun l =>
    if l.name = "wr" then
      match l.args with
      | [.tile t, .num o, .num v] =>
        if v < 2 ^ 32 then some (.bus t 32 true o (BitVec.ofNat 32 v)) else none
      | _ => none
    else if l.name = "rd" then
      match l.args with
      | [.tile t, .num o] => some (.bus t 32 false o 0)
      | _ => none
    else some (.line l)

/-! ### The opcode table's words -/

/-- The transaction word `T = W ++ off[W_OFF-1:0]` (R101; 19 bits for the reference `W_OFF`). -/
def transactionWord (wOff : Nat) (w : Bool) (off : Nat) : Nat := w.toNat * 2 ^ wOff + off

/-- The raw transaction whose word is `T`, with data `v`, on tile `t`. -/
def rawOfWord (wOff : Nat) (t : TileId) (T : Nat) (v : Word) : Raw :=
  .bus t 32 (decide (2 ^ wOff ≤ T)) (T % 2 ^ wOff) v

/-- The kinds of the reference fabric: tile 0 a compute tile, tile 1 a boundary tile (log 5). -/
def referenceKinds (t : TileId) : TileKind := if t = 0 then .ct else .bt

/-- The instruction of an opcode-table word.  `T` does not name the tile: a word is tried on tile 0, a compute tile, then on
tile 1, a boundary tile, under the reference parameters, as after reset (log 5, 7).  The table gives no bit to the write
data, which is 0. -/
def decodeTableWord (_nbits w : Nat) : Option Instr :=
  if w < 2 ^ 19 then
    match decode .reference referenceKinds (rawOfWord 18 0 w 0) with
    | .ok i => some i
    | .error _ =>
      match decode .reference referenceKinds (rawOfWord 18 1 w 0) with
      | .ok i => some i
      | .error _ => none
  else none

/-- A transaction row of spec/opcode_table.json: tile kind (none is "any"), mask and match, and the constraint on
the fields of `T` (R101). -/
structure Row where
  mnemonic : String
  kind : Option TileKind
  mask : BitVec 19
  pattern : BitVec 19
  /-- exclusive bound of the constrained field as a function of the kind, with the field's lowest bit and width -/
  bound : Option ((TileKind → Nat) × Nat × Nat)

/-- The 30 transaction rows of spec/opcode_table.json. -/
def tableRows : List Row :=
  [ ⟨"DM_WR", some .ct, 0x78003, 0x40000, none⟩, ⟨"DM_RD", some .ct, 0x78003, 0x00000, none⟩,
    ⟨"BD_WR", some .ct, 0x7FE03, 0x5D000, some (fun _ => 7, 2, 3)⟩,
    ⟨"BD_RD", some .ct, 0x7FE03, 0x1D000, some (fun _ => 7, 2, 3)⟩,
    ⟨"CH_CTRL_WR", some .ct, 0x7FFE7, 0x5DE00, none⟩, ⟨"CH_CTRL_RD", some .ct, 0x7FFE7, 0x1DE00, none⟩,
    ⟨"CH_STARTBD_WR", some .ct, 0x7FFE7, 0x5DE04, none⟩, ⟨"CH_STARTBD_RD", some .ct, 0x7FFE7, 0x1DE04, none⟩,
    ⟨"CH_STATUS_RD", some .ct, 0x7FFEF, 0x1DF00, none⟩, ⟨"CH_STATUS_WR", some .ct, 0x7FFEF, 0x5DF00, none⟩,
    ⟨"LOCK_ACQ_NV_RD", some .ct, 0x7F87F, 0x1E040, none⟩, ⟨"LOCK_ACQ_V0_RD", some .ct, 0x7F87F, 0x1E060, none⟩,
    ⟨"LOCK_ACQ_V1_RD", some .ct, 0x7F87F, 0x1E070, none⟩, ⟨"LOCK_REL_NV_RD", some .ct, 0x7F87F, 0x1E000, none⟩,
    ⟨"LOCK_REL_V0_RD", some .ct, 0x7F87F, 0x1E020, none⟩, ⟨"LOCK_REL_V1_RD", some .ct, 0x7F87F, 0x1E030, none⟩,
    ⟨"LOCK_WR", some .ct, 0x7F800, 0x5E000, none⟩,
    ⟨"LOCK_ACQ_NV_RD_BT", some .bt, 0x7F87F, 0x14040, none⟩, ⟨"LOCK_ACQ_V0_RD_BT", some .bt, 0x7F87F, 0x14060, none⟩,
    ⟨"LOCK_ACQ_V1_RD_BT", some .bt, 0x7F87F, 0x14070, none⟩, ⟨"LOCK_REL_NV_RD_BT", some .bt, 0x7F87F, 0x14000, none⟩,
    ⟨"LOCK_REL_V0_RD_BT", some .bt, 0x7F87F, 0x14020, none⟩, ⟨"LOCK_REL_V1_RD_BT", some .bt, 0x7F87F, 0x14030, none⟩,
    ⟨"LOCK_WR_BT", some .bt, 0x7F800, 0x54000, none⟩,
    ⟨"MCFG_WR", none, 0x7FF03, 0x7F000, some (Params.reference.nMasters, 2, 6)⟩,
    ⟨"MCFG_RD", none, 0x7FF03, 0x3F000, some (Params.reference.nMasters, 2, 6)⟩,
    ⟨"SCFG_WR", none, 0x7FF03, 0x7F100, some (Params.reference.nSlaves, 2, 6)⟩,
    ⟨"SCFG_RD", none, 0x7FF03, 0x3F100, some (Params.reference.nSlaves, 2, 6)⟩,
    ⟨"SLOT_WR", none, 0x7FE03, 0x7F200, some (Params.reference.nSlaves, 4, 5)⟩,
    ⟨"SLOT_RD", none, 0x7FE03, 0x3F200, some (Params.reference.nSlaves, 4, 5)⟩ ]

/-- The row selects the word `T` on a tile of kind `k` (R101). -/
def Row.selects (r : Row) (k : TileKind) (T : BitVec 19) : Bool :=
  (r.kind == none || r.kind == some k) && (T &&& r.mask == r.pattern) &&
    match r.bound with
    | none => true
    | some (b, lsb, w) => decide ((T.toNat >>> lsb) % 2 ^ w < b k)

/-- Each instruction's mnemonic in spec/opcode_table.json. -/
def Instr.mnemonic : Instr → String
  | .dmWr .. => "DM_WR"
  | .dmRd .. => "DM_RD"
  | .bdWr .. => "BD_WR"
  | .bdRd .. => "BD_RD"
  | .chCtrlWr .. => "CH_CTRL_WR"
  | .chCtrlRd .. => "CH_CTRL_RD"
  | .chStartBdWr .. => "CH_STARTBD_WR"
  | .chStartBdRd .. => "CH_STARTBD_RD"
  | .chStatusRd .. => "CH_STATUS_RD"
  | .chStatusWr .. => "CH_STATUS_WR"
  | .lockAcqNvRd .. => "LOCK_ACQ_NV_RD"
  | .lockAcqV0Rd .. => "LOCK_ACQ_V0_RD"
  | .lockAcqV1Rd .. => "LOCK_ACQ_V1_RD"
  | .lockRelNvRd .. => "LOCK_REL_NV_RD"
  | .lockRelV0Rd .. => "LOCK_REL_V0_RD"
  | .lockRelV1Rd .. => "LOCK_REL_V1_RD"
  | .lockWr .. => "LOCK_WR"
  | .lockAcqNvRdBt .. => "LOCK_ACQ_NV_RD_BT"
  | .lockAcqV0RdBt .. => "LOCK_ACQ_V0_RD_BT"
  | .lockAcqV1RdBt .. => "LOCK_ACQ_V1_RD_BT"
  | .lockRelNvRdBt .. => "LOCK_REL_NV_RD_BT"
  | .lockRelV0RdBt .. => "LOCK_REL_V0_RD_BT"
  | .lockRelV1RdBt .. => "LOCK_REL_V1_RD_BT"
  | .lockWrBt .. => "LOCK_WR_BT"
  | .mcfgWr .. => "MCFG_WR"
  | .mcfgRd .. => "MCFG_RD"
  | .scfgWr .. => "SCFG_WR"
  | .scfgRd .. => "SCFG_RD"
  | .slotWr .. => "SLOT_WR"
  | .slotRd .. => "SLOT_RD"
  | .walkStart .. => "WALK_START"
  | .walkAbandon .. => "WALK_ABANDON"
  | .walkFetch .. => "WALK_FETCH"
  | .walkAcquire .. => "WALK_ACQUIRE"
  | .walkHeader .. => "WALK_HEADER"
  | .walkTransfer .. => "WALK_TRANSFER"
  | .walkRelease .. => "WALK_RELEASE"
  | .walkAdvance .. => "WALK_ADVANCE"
  | .swCircuit .. => "SW_CIRCUIT"
  | .swPktStart .. => "SW_PKT_START"
  | .swPktForward .. => "SW_PKT_FORWARD"
  | .envStep .. => "ENV_STEP"
  | .poll .. => "poll"
  | .lockAcquire .. => "lock.acquire"
  | .lockRelease .. => "lock.release"
  | .bdSetLock .. => "bd.setLock"
  | .bdSet2D .. => "bd.set2D"
  | .bdSetInterleave .. => "bd.setInterleave"
  | .bdSetAddrLenMode .. => "bd.setAddrLenMode"
  | .bdSetNext .. => "bd.setNext"
  | .bdSetPacket .. => "bd.setPacket"
  | .bdClear .. => "bd.clear"
  | .bdClearAll .. => "bd.clearAll"
  | .bdCommit .. => "bd.commit"
  | .chControl .. => "ch.control"
  | .chSetStartBd .. => "ch.setStartBd"
  | .chReset .. => "ch.reset"
  | .chResetAll .. => "ch.resetAll"
  | .dmaInitialize .. => "dma.initialize"
  | .ssPortId .. => "ss.portId"
  | .ssConfigureMaster .. => "ss.configureMaster"
  | .ssConfigureSlave .. => "ss.configureSlave"
  | .ssConnectCircuit .. => "ss.connectCircuit"
  | .ssConfigureSlot .. => "ss.configureSlot"
  | .ssMstrPktConfig .. => "ss.mstrPktConfig"

end Sys2Proof
end

