-- ==== Sys2Proof/Machine/State.lean ====
section
/-! DEFINITION. The state of the machine (spec/10_state.md): every element the spec names, as plain data, the host's
side of the commit engine, the model's bookkeeping, the reasons a run stops, and the state after reset. -/

namespace Sys2Proof.Machine

/-! ### Registers -/

/-- A register cell: the 32-bit word last written (reserved bits included, R140) and the flag `written` (R22). -/
structure RegCell where
  val : Word
  written : Bool
  deriving DecidableEq, Repr, Inhabited

/-- A lock (R30): `held` means acquired. -/
structure Lock where
  held : Bool
  value : Bool
  deriving DecidableEq, Repr, Inhabited

/-! ### Buffer descriptors -/

/-- The fields of one address slot (R51, R120, R121). -/
structure SlotFields where
  lockId : BitVec 4
  relEn : Bool
  relVal : Bool
  relValEn : Bool
  acqEn : Bool
  acqVal : Bool
  acqValEn : Bool
  base : BitVec 13
  deriving DecidableEq, Repr, Inhabited

/-- The fields that a mirror BD and a fetched BD share (R51, R120 to R126). -/
structure BdFields where
  a : SlotFields
  b : SlotFields
  xIncr : BitVec 8
  xWrap : BitVec 8
  xOff : BitVec 13
  yIncr : BitVec 8
  yWrap : BitVec 8
  yOff : BitVec 13
  pktType : BitVec 5
  pktId : BitVec 5
  intlvWhich : Bool
  intlvCur : BitVec 8
  abMode : Bool
  fifoMode : BitVec 2
  pktEn : Bool
  intlvEn : Bool
  intlvCnt : BitVec 8
  nextEn : Bool
  length : BitVec 13
  deriving DecidableEq, Repr, Inhabited

/-- A buffer descriptor as the walker decodes it (R206): `nextBd` has 4 bits, and there is a valid bit. -/
structure HwBd where
  fields : BdFields
  valid : Bool
  nextBd : BitVec 4
  deriving DecidableEq, Repr, Inhabited

/-- A mirror BD of the host (R51): `nextBd` has 8 bits, to hold the sentinel `0xFF`. -/
structure MirrorBd where
  fields : BdFields
  nextBd : BitVec 8
  deriving DecidableEq, Repr, Inhabited

/-- The slot fields of a cleared BD (R52). -/
def SlotFields.cleared : SlotFields where
  lockId := 0
  relEn := false
  relVal := false
  relValEn := false
  acqEn := false
  acqVal := false
  acqValEn := false
  base := 0

/-- `ClearedBd` (R52). -/
def MirrorBd.cleared : MirrorBd where
  fields :=
    { a := .cleared, b := .cleared
      xIncr := 0, xWrap := 255, xOff := 1
      yIncr := 255, yWrap := 255, yOff := 256
      pktType := 0, pktId := 0
      intlvWhich := false, intlvCur := 0
      abMode := false, fifoMode := 0, pktEn := false
      intlvEn := false, intlvCnt := 0
      nextEn := false, length := 0 }
  nextBd := 0

/-- The fields of a slot. -/
def BdFields.slot (b : BdFields) : Slot → SlotFields
  | .a => b.a
  | .b => b.b

/-! ### Walkers -/

/-- The phases of a walker (R41). -/
inductive Phase where
  | idle | fetch | acquire | header | transfer | release | advance
  deriving DecidableEq, Repr, Inhabited

/-- `Walker(c)` (R40 to R44). -/
structure Walker where
  phase : Phase
  cur : BdIx
  snap : Option HwBd
  buf : Slot
  done : Nat
  startPending : Bool
  deriving DecidableEq, Repr, Inhabited

/-- The power-on value of a walker (R40), which a channel reset restores (R257). -/
def Walker.powerOn : Walker where
  phase := .idle
  cur := 0
  snap := none
  buf := .a
  done := 0
  startPending := false

/-! ### Stream switch -/

/-- `pktRoute(s)` while a packet is in flight (R48): target masters, arbiter, header not yet forwarded. -/
structure PktRoute where
  targets : List MasterId
  arb : BitVec 3
  first : Bool
  deriving DecidableEq, Repr, Inhabited

/-! ### Data memory -/

/-- Data memory: (byte address, byte), addresses strictly rising; an unlisted byte has not been written (R34, log 11). -/
abbrev Memory := List Host.Cell

/-- Who accesses data memory or requests a lock (R8, R83). -/
inductive Agent where
  | host | walker (t : TileId) (c : ChIx) | core (t : TileId) | neighbour
  deriving DecidableEq, Repr, Inhabited

/-- A data-memory write that some agent may not be ordered after (R83, log 12): the tile and the word address, the word
before it (none: not written), the word written, the agents ordered after the write, the locks that carry that order, and
the agents that have since written the word themselves, whose own reads it cannot reach (R90). -/
structure WriteRec where
  t : TileId
  wa : Nat
  old : Option Word
  new : Word
  known : List Agent
  locks : List (TileId × LockIx)
  overBy : List Agent
  deriving DecidableEq, Repr, Inhabited

/-! ### The tile -/

/-- A tile reference (R20), a parameter of the launch. -/
structure TileRef where
  col : Nat
  row : Nat
  kind : TileKind
  base : Nat
  deriving DecidableEq, Repr, Inhabited

/-- The block of one tile (10_state.md).  A tile of kind BT has no DMA: its `bdw`, `abCur`, `ctrl`, `startBd`, `walker`
and `dm` are never reached, and a port place at or beyond the tile's port count is none (log 19, 34). -/
structure Tile where
  ref : TileRef
  /-- `BDW[n][k]` (R24) -/
  bdw : Vector (Vector RegCell 7) 16
  /-- `abCur[n]` (R46) -/
  abCur : Vector Slot 16
  /-- `CTRL[c]` (R27) -/
  ctrl : Vector RegCell 4
  /-- `STARTBD[c]` (R28) -/
  startBd : Vector RegCell 4
  /-- `LOCK[l]` (R30) -/
  lock : Vector Lock 16
  /-- `MCFG[m]` (R31) -/
  mcfg : Vector RegCell 128
  /-- `SCFG[s]` (R31) -/
  scfg : Vector RegCell 128
  /-- `SLOT[s][k]` (R32) -/
  slot : Vector (Vector RegCell 4) 128
  /-- `DM` (R34) -/
  dm : Memory
  /-- `Walker(c)` (R40) -/
  walker : Vector Walker 4
  /-- `inQ(s)` (R47), head first -/
  inQ : Vector (List StreamWord) 128
  /-- `outQ(m)` (R47), head first -/
  outQ : Vector (List StreamWord) 128
  /-- `pktRoute(s)` (R48) -/
  pktRoute : Vector (Option PktRoute) 128
  /-- `arbOwner(a)` (R48); only the first `N_ARB` places are used (log 32) -/
  arbOwner : Vector (Option SlaveId) 8
  /-- the model's: the words the environment removed, in order (log 18) -/
  drained : List (MasterId × StreamWord)
  /-- the model's: the word the last environment read or lock request returned (log 18) -/
  envData : Word
  deriving DecidableEq, Repr

/-! ### The host's side -/

/-- The reasons of a contract violation (R375). -/
inductive ErrReason where
  | badBdIndex | badSlot | badLockId | badLockValue | badFlag | badAxis | fieldTooWide | intlvCountNotMult4
  | badFifoMode | misaligned | lengthFifoAlign | lengthZero | badNextBd | badChannel | badStartBd | badPort
  | badSlotIndex | orchestrationFailure
  deriving DecidableEq, Repr, Inhabited

/-- What a command returns to its caller (R371, R168, R306, R344). -/
inductive CmdResult where
  | ok
  | value (n : Nat)
  | bool (b : Bool)
  | err (r : ErrReason)
  deriving DecidableEq, Repr, Inhabited

/-- A DMA engine instance (R50); its tile is its index. -/
structure Eng where
  ready : Bool
  startBd : Vector (BitVec 8) 4
  bd : Vector MirrorBd 16
  deriving DecidableEq, Repr

/-- The value of an engine instance at creation (R50). -/
def Eng.created : Eng where
  ready := false
  startBd := .replicate 4 0xFF
  bd := .replicate 16 .cleared

/-- What the host has still to do, one host step each: a transaction on a tile, a transaction at a system address (R21),
a written command, one attempt of a poll (with the attempts that may follow it, R163), the bookkeeping of
`ch.setStartBd` (R281) and of `dma.initialize` (R284), and the return of a command's result. -/
inductive HostOp where
  | bus (t : TileId) (width : Nat) (w : Bool) (off : Nat) (v : Word)
  | mmio (addr : Nat) (width : Nat) (w : Bool) (v : Word)
  | line (l : Line)
  | pollTry (t : TileId) (off : Nat) (mask expected more : Nat)
  | noteStartBd (e : TileId) (c : ChIx) (bd : BitVec 8)
  | noteReady (e : TileId)
  | ret (r : CmdResult)
  deriving DecidableEq, Repr

/-- The host (R8): its engine instances, the rest of its program, the word its last read returned, and the result of
its last command (none while a command has not returned); log 14. -/
structure HostSide where
  eng : Vector (Option Eng) 2
  queue : List HostOp
  readData : Word
  result : Option CmdResult
  deriving DecidableEq, Repr

/-! ### Why a run stops -/

/-- The faults of R374, with their info.  A step that raises one records it in `State.faults` and has no other effect
(R372); the run then stops with it, raised by `step` at every later turn.  Safe: no behaviour is given where the spec
gives none. -/
inductive Fault where
  /-- host transaction at an offset no row maps (R79, R141); safe -/
  | unmapped (off : Nat)
  /-- host access that is not one aligned 32-bit word (R71); safe -/
  | accessWidth (off : Nat)
  /-- host write to a lock-request region or a channel status offset (R161, R256); safe -/
  | reservedWrite (off : Nat)
  /-- host read or walker fetch of a BD word never written (R192, R262); safe -/
  | unwritten (off : Nat)
  /-- fetched BD with `valid = 0` (R262); safe -/
  | bdInvalid (n : BdIx)
  /-- host write to a BD a walker is executing, under `P_BD_INUSE_WRITE = fault` (R269), raised by the step after the write
  (log 10); safe -/
  | bdInUseWrite (n : BdIx)
  /-- start-BD write while the channel's walker is not Idle (R253); safe -/
  | startBdBusy (c : ChIx)
  /-- generated word address at or beyond `DM_WORDS` (R270); safe -/
  | dmaAddr (wa : Nat)
  /-- circuit master whose `Config` names no slave (R310); safe -/
  | circuitSource (m : MasterId)
  /-- enabled slot whose `Id` has a 1 outside its `Mask` (R350); safe -/
  | slotIdOutsideMask (p : SlaveId) (k : SlotIx)
  /-- no enabled slot matches the header id (R350); safe -/
  | noSlotMatch (p : SlaveId) (id : BitVec 5)
  /-- a matching slot's arbiter index at or above `N_ARB` (R350); safe -/
  | arbiterRangeSlot (p : SlaveId) (k : SlotIx)
  /-- an enabled packet master's arbiter index at or above `N_ARB` (R355); safe -/
  | arbiterRangeMaster (m : MasterId)
  /-- no packet master accepts the slot's arbiter and master-select (R355); safe -/
  | noPacketRoute (p : SlaveId) (a : BitVec 3) (ms : BitVec 2)
  deriving DecidableEq, Repr

/-- The refusals of R374, recorded in `State.refusal` (R373) and then raised by `step` at every later turn, and the
model's own. -/
inductive Refusal where
  /-- fetched BD with `intlvEn = 1` (R268); safe -/
  | interleave
  /-- fetched BD with `fifoMode ≠ 0` (R268); safe -/
  | fifoMode
  /-- a DMA command on an engine of a BT tile (R193); safe -/
  | btDma
  /-- the host's program holds a line that is no command of R146; raised by the host's turn; safe (log 25) -/
  | badLine
  /-- an instruction without a meaning; raised by no arm of `exec`; safe -/
  | notModelled (mnemonic : String)
  deriving DecidableEq, Repr

/-! ### The state -/

/-- The machine's state.  `pending`, `writes`, `params`, `turns` and `draws` are the model's own (log 10, 12, 7, 2, 4). -/
structure State where
  tiles : Vector Tile 2
  host : HostSide
  /-- `faults` (R55) -/
  faults : List Fault
  /-- `refused` (R55) with the refusal's name: the bit is 1 when a name is there -/
  refusal : Option Refusal
  /-- the model's: a fault that the next step raises (R269, R372; log 10) -/
  pending : Option Fault
  /-- the model's: the data-memory writes that a read may race with (R83, log 12) -/
  writes : List WriteRec
  params : Config.Params
  /-- whose turns come next; where it is empty, the next turn is drawn -/
  turns : List Turn
  /-- how many free values have been drawn -/
  draws : Nat
  deriving DecidableEq, Repr

/-- A tile at power-on (R401). -/
def Tile.powerOn (p : Config.PowerOn) (r : TileRef) : Tile where
  ref := r
  bdw := .replicate 16 (.replicate 7 ⟨0, false⟩)
  abCur := .replicate 16 .a
  ctrl := .replicate 4 ⟨p.ctrl, true⟩
  startBd := .replicate 4 ⟨p.startBd, true⟩
  lock := .replicate 16 ⟨p.lockHeld, p.lockValue⟩
  mcfg := .replicate 128 ⟨p.mcfg, false⟩
  scfg := .replicate 128 ⟨p.scfg, false⟩
  slot := .replicate 128 (.replicate 4 ⟨p.slot, false⟩)
  dm := []
  walker := .replicate 4 .powerOn
  inQ := .replicate 128 []
  outQ := .replicate 128 []
  pktRoute := .replicate 128 none
  arbOwner := .replicate 8 none
  drained := []
  envData := 0

/-- The machine at launch (R400, R401) with given parameters and tile references. -/
def State.powerOn (q : Config.Params) (p : Config.PowerOn) (refs : Vector TileRef 2) : State where
  tiles := Vector.ofFn fun t : TileId => Tile.powerOn p refs[t]
  host := { eng := .replicate 2 none, queue := [], readData := 0, result := none }
  faults := []
  refusal := none
  pending := none
  writes := []
  params := q
  turns := []
  draws := 0

/-- The reference fabric (DESIGN CHOICE, log 5): tile 0 a compute tile, tile 1 a boundary tile. -/
def referenceFabric : Vector TileRef 2 := #v[⟨0, 1, .ct, 0⟩, ⟨0, 0, .bt, 0x40000⟩]

/-- The machine right after reset (R401), with the reference parameters of R6. -/
def State.reset : State := .powerOn .reference .reference referenceFabric

end Sys2Proof.Machine
end

