-- ==== Sys2Proof/Machine/Operands.lean ====
section
/-! DEFINITION. Operand forms: the register field codec (R110, R111), every register format (R120 to R133), packing and
unpacking of descriptors (R202, R206), the address generator (R271), the packet header (R351), the port tables (R305). -/

namespace Sys2Proof.Machine

/-! ### The codec -/

/-- `setField(v, lsb, w) = (v mod 2^w) << lsb` (R110). -/
def setField (v lsb w : Nat) : Word := BitVec.ofNat 32 (v % 2 ^ w) <<< lsb

/-- `getField(x, lsb, w) = (x >> lsb) mod 2^w` (R111), as a bit vector of width `w`. -/
def getField (x : Word) (lsb w : Nat) : BitVec w := BitVec.ofNat w (x.toNat >>> lsb)

/-- A one-bit field as a flag. -/
def getBit (x : Word) (i : Nat) : Bool := x.getLsbD i

/-! ### Buffer-descriptor words -/

open Config (FieldAt SlotLayout BdLayout Layout)

/-- A field of a register set: its place, its width, its value. -/
structure Field where
  place : FieldAt
  width : Nat
  value : Nat

/-- Word `k` of a set of fields: those that stand in it, every other bit 0. -/
def fieldsWord (fs : List Field) (k : BdWordIx) : Word :=
  fs.foldr (fun f w => if f.place.word = k then setField f.value f.place.lsb f.width ||| w else w) 0

/-- The bits of word `k` that fields occupy. -/
def fieldsMask (fs : List Field) (k : BdWordIx) : Word :=
  fs.foldr (fun f w => if f.place.word = k then setField (2 ^ f.width - 1) f.place.lsb f.width ||| w else w) 0

/-- The fields of an address slot (R120, R121). -/
def slotFieldsOf (L : SlotLayout) (f : SlotFields) : List Field :=
  [⟨L.lockId, 4, f.lockId.toNat⟩, ⟨L.relEn, 1, f.relEn.toNat⟩, ⟨L.relVal, 1, f.relVal.toNat⟩,
   ⟨L.relValEn, 1, f.relValEn.toNat⟩, ⟨L.acqEn, 1, f.acqEn.toNat⟩, ⟨L.acqVal, 1, f.acqVal.toNat⟩,
   ⟨L.acqValEn, 1, f.acqValEn.toNat⟩, ⟨L.base, 13, f.base.toNat⟩]

/-- The fields of a mirror BD as a commit packs them (R122 to R126, R202): the valid bit is 1, and the next-BD field is 0
where the chain is off. -/
def bdFieldsOf (L : BdLayout) (b : MirrorBd) : List Field :=
  slotFieldsOf L.a b.fields.a ++ slotFieldsOf L.b b.fields.b ++
  [⟨L.xIncr, 8, b.fields.xIncr.toNat⟩, ⟨L.xWrap, 8, b.fields.xWrap.toNat⟩, ⟨L.xOff, 13, b.fields.xOff.toNat⟩,
   ⟨L.yIncr, 8, b.fields.yIncr.toNat⟩, ⟨L.yWrap, 8, b.fields.yWrap.toNat⟩, ⟨L.yOff, 13, b.fields.yOff.toNat⟩,
   ⟨L.pktType, 5, b.fields.pktType.toNat⟩, ⟨L.pktId, 5, b.fields.pktId.toNat⟩,
   ⟨L.intlvWhich, 1, b.fields.intlvWhich.toNat⟩, ⟨L.intlvCur, 8, b.fields.intlvCur.toNat⟩,
   ⟨L.valid, 1, 1⟩, ⟨L.abMode, 1, b.fields.abMode.toNat⟩, ⟨L.fifoMode, 2, b.fields.fifoMode.toNat⟩,
   ⟨L.pktEn, 1, b.fields.pktEn.toNat⟩, ⟨L.intlvEn, 1, b.fields.intlvEn.toNat⟩,
   ⟨L.intlvCnt, 8, b.fields.intlvCnt.toNat⟩, ⟨L.nextEn, 1, b.fields.nextEn.toNat⟩,
   ⟨L.nextBd, 4, if b.fields.nextEn then b.nextBd.toNat else 0⟩, ⟨L.length, 13, b.fields.length.toNat⟩]

/-- `packBd` (R202). -/
def packBd (L : BdLayout) (b : MirrorBd) : Vector Word 7 := Vector.ofFn (fieldsWord (bdFieldsOf L b))

/-- The bits of each descriptor word that carry a field; every other bit is reserved (R120 to R126, R140). -/
def bdMask (L : BdLayout) (k : BdWordIx) : Word := fieldsMask (bdFieldsOf L .cleared) k

/-- The field of `n` bits at a place of a descriptor's words (R111, R206). -/
def fieldAt (w : Vector Word 7) (p : FieldAt) (n : Nat) : BitVec n := getField w[p.word] p.lsb n

/-- The one-bit field at a place of a descriptor's words. -/
def bitAt (w : Vector Word 7) (p : FieldAt) : Bool := getBit w[p.word] p.lsb

/-- The slot fields of a descriptor (R206). -/
def unpackSlot (L : SlotLayout) (w : Vector Word 7) : SlotFields where
  lockId := fieldAt w L.lockId 4
  relEn := bitAt w L.relEn
  relVal := bitAt w L.relVal
  relValEn := bitAt w L.relValEn
  acqEn := bitAt w L.acqEn
  acqVal := bitAt w L.acqVal
  acqValEn := bitAt w L.acqValEn
  base := fieldAt w L.base 13

/-- `unpackBd` (R206). -/
def unpackBd (L : BdLayout) (w : Vector Word 7) : HwBd where
  fields :=
    { a := unpackSlot L.a w, b := unpackSlot L.b w
      xIncr := fieldAt w L.xIncr 8, xWrap := fieldAt w L.xWrap 8, xOff := fieldAt w L.xOff 13
      yIncr := fieldAt w L.yIncr 8, yWrap := fieldAt w L.yWrap 8, yOff := fieldAt w L.yOff 13
      pktType := fieldAt w L.pktType 5, pktId := fieldAt w L.pktId 5
      intlvWhich := bitAt w L.intlvWhich, intlvCur := fieldAt w L.intlvCur 8
      abMode := bitAt w L.abMode, fifoMode := fieldAt w L.fifoMode 2, pktEn := bitAt w L.pktEn
      intlvEn := bitAt w L.intlvEn, intlvCnt := fieldAt w L.intlvCnt 8
      nextEn := bitAt w L.nextEn, length := fieldAt w L.length 13 }
  valid := bitAt w L.valid
  nextBd := fieldAt w L.nextBd 4

/-! ### Channel and switch registers -/

/-- The control word of a channel (R127, R280). -/
def ctrlWord (L : Layout) (reset enable : Nat) : Word := setField reset L.ctrlReset 1 ||| setField enable L.ctrlEnable 1

/-- `CTRL.Reset` (R127). -/
def ctrlReset (L : Layout) (w : Word) : Bool := getBit w L.ctrlReset

/-- `CTRL.Enable` (R127). -/
def ctrlEnable (L : Layout) (w : Word) : Bool := getBit w L.ctrlEnable

/-- The start-BD word (R128, R281). -/
def startBdWord (L : Layout) (bd : Nat) : Word := setField bd L.startBd 4

/-- `STARTBD.StartBd` (R128). -/
def startBdField (L : Layout) (w : Word) : BdIx := Fin.ofNat 16 (getField w L.startBd 4).toNat

/-- `MCFG.Enable` (R130). -/
def masterEnable (L : Layout) (w : Word) : Bool := getBit w L.mcfgEnable

/-- `MCFG.PacketEnable` (R130). -/
def masterPacket (L : Layout) (w : Word) : Bool := getBit w L.mcfgPacket

/-- `MCFG.DropHeader` (R130). -/
def mcfgDrop (L : Layout) (w : Word) : Bool := getBit w L.mcfgDrop

/-- `MCFG.Config` (R130). -/
def mcfgConfig (L : Layout) (w : Word) : BitVec 7 := getField w L.mcfgConfig 7

/-- The arbiter index of a packet master, `Config[2:0]` (R130). -/
def mcfgArb (L : Layout) (w : Word) : BitVec 3 := (mcfgConfig L w).extractLsb' 0 3

/-- A packet master's mask, `Config[6:3]`, accepts a master-select (R130, R355). -/
def mcfgAccepts (L : Layout) (w : Word) (ms : BitVec 2) : Bool := (mcfgConfig L w).getLsbD (3 + ms.toNat)

/-- The word of an enabled master (R307): of the 8-bit configuration word, bit 7 is the drop-header flag. -/
def mcfgWord (L : Layout) (pktEn cfg : Nat) : Word :=
  setField 1 L.mcfgEnable 1 ||| setField pktEn L.mcfgPacket 1 ||| setField (cfg / 2 ^ 7) L.mcfgDrop 1
    ||| setField cfg L.mcfgConfig 7

/-- `SCFG.Enable` (R131). -/
def slaveEnable (L : Layout) (w : Word) : Bool := getBit w L.scfgEnable

/-- `SCFG.PacketEnable` (R131). -/
def slavePacket (L : Layout) (w : Word) : Bool := getBit w L.scfgPacket

/-- The word of an enabled slave (R308). -/
def scfgWord (L : Layout) (pktEn : Nat) : Word := setField 1 L.scfgEnable 1 ||| setField pktEn L.scfgPacket 1

/-- `SLOT.Id` (R132). -/
def slotId (L : Layout) (w : Word) : BitVec 5 := getField w L.slotId 5

/-- `SLOT.Mask` (R132). -/
def slotMask (L : Layout) (w : Word) : BitVec 5 := getField w L.slotMask 5

/-- `SLOT.Enable` (R132). -/
def slotEnable (L : Layout) (w : Word) : Bool := getBit w L.slotEnable

/-- `SLOT.Msel` (R132). -/
def slotMsel (L : Layout) (w : Word) : BitVec 2 := getField w L.slotMsel 2

/-- `SLOT.Arbiter` (R132). -/
def slotArb (L : Layout) (w : Word) : BitVec 3 := getField w L.slotArb 3

/-- The word of an enabled slot (R343). -/
def slotWord (L : Layout) (id mask msel arb : Nat) : Word :=
  setField id L.slotId 5 ||| setField mask L.slotMask 5 ||| setField 1 L.slotEnable 1 ||| setField msel L.slotMsel 2
    ||| setField arb L.slotArb 3

/-- The configuration word of `ss.mstrPktConfig` (R344). -/
def mstrPktConfigWord (drop mask arb : Nat) : Word := setField drop 7 1 ||| setField mask 3 4 ||| setField arb 0 3

/-- The field bits of `CTRL` (R127); every other bit is reserved (R140). -/
def ctrlMask (L : Layout) : Word := ctrlWord L 1 1

/-- The field bits of `STARTBD` (R128). -/
def startBdMask (L : Layout) : Word := startBdWord L 15

/-- The field bits of `MCFG` (R130). -/
def mcfgMask (L : Layout) : Word := mcfgWord L 1 255

/-- The field bits of `SCFG` (R131). -/
def scfgMask (L : Layout) : Word := scfgWord L 1

/-- The field bits of `SLOT` (R132). -/
def slotRegMask (L : Layout) : Word := slotWord L 31 31 3 7

/-- What a read of a register holding `w` returns, its reserved bits drawn as free word `d` (R140): a reserved bit last
written 0 reads 0, one last written 1 is a draw.  Nothing is drawn where every reserved bit is 0. -/
def readBack (mask w : Word) (d : Nat) : Word :=
  if w &&& ~~~mask = 0 then w else (w &&& mask) ||| (Config.freeWord d &&& (w &&& ~~~mask))

/-! ### Address generator -/

/-- The reference formula of `addrGen2D` (R271). -/
def addrRef (g : Config.Addr2D) (k : Nat) : Nat :=
  g.base + k / (g.xIncr + 1) % (g.xWrap + 1) * g.xOff + k / (g.yIncr + 1) % (g.yWrap + 1) * g.yOff

/-- The six stored 2D fields have their cleared values (R52, R271). -/
def isClearedAddr (g : Config.Addr2D) : Bool :=
  g.xIncr == 0 && g.xWrap == 255 && g.xOff == 1 && g.yIncr == 255 && g.yWrap == 255 && g.yOff == 256

/-- `addrGen2D` (R271): the reference formula, or a free generator that meets the source's law (log 22). -/
def addrGen2D (m : Config.Gen) (g : Config.Addr2D) (k : Nat) : Nat :=
  match m with
  | .reference => addrRef g k
  | .free => if isClearedAddr g && decide (k < 8192) then g.base + k else Config.freeAddr g k

/-- The generator's arguments for a fetched BD and a slot (R270). -/
def HwBd.addr2D (b : HwBd) (x : Slot) : Config.Addr2D where
  base := (b.fields.slot x).base.toNat
  xIncr := b.fields.xIncr.toNat
  xWrap := b.fields.xWrap.toNat
  xOff := b.fields.xOff.toNat
  yIncr := b.fields.yIncr.toNat
  yWrap := b.fields.yWrap.toNat
  yOff := b.fields.yOff.toNat

/-! ### Packet header -/

/-- `mkHeader` (R351). -/
def mkHeader (h : Config.Header) (type id : BitVec 5) : Word :=
  match h with
  | .reference => setField id.toNat 0 5 ||| setField type.toNat 12 5
  | .given words => words[type.toFin][id.toFin]

/-- The ids under which a `mkHeader` builds the word `h`. -/
def headerIds (words : Vector (Vector Word 32) 32) (h : Word) : List (Fin 32) :=
  (List.finRange 32).filter fun i => (List.finRange 32).any fun t => words[t][i] == h

/-- `hdrId` (R351): where the pair is not the reference one, the id of a word that `mkHeader` builds is the one its law
asks for, and that of any other word is free (log 22). -/
def hdrId (p : Config.Header) (h : Word) : BitVec 5 :=
  match p with
  | .reference => getField h 0 5
  | .given words =>
    match headerIds words h with
    | i :: _ => BitVec.ofFin i
    | [] => Config.freeHdrId h

/-! ### Port tables -/

/-- `ss.portId` (R306): none is `BadPort`. -/
def portId (q : Config.Params) (k : TileKind) (d : PortDir) (c : PortClass) (i : Nat) : Option Nat :=
  let r := (q.ports k d).range c
  if i < r.count then some (r.first + i) else none

/-! ### Arguments of commands -/

/-- A lock-value argument (R165, R194): none where it is not 0, 1 or the sentinel; `some none` for the sentinel. -/
def readValArg (noValue : Nat) : ValArg → Option (Option Bool)
  | .none => some none
  | .num n => if n = noValue then some none else if n = 0 then some (some false) else if n = 1 then some (some true) else none

/-- A flag argument is 0 or 1 (R375 `BadFlag`). -/
def isFlag (n : Nat) : Bool := decide (n < 2)

/-- A next-BD or start-BD argument is an index or the sentinel `0xFF` (R198, R281). -/
def isBdOrSentinel (n : Nat) : Bool := decide (n < 16) || n == 0xFF

end Sys2Proof.Machine
end

