-- ==== Sys2Proof/Machine/Flags.lean ====
section
/-! DEFINITION. The flags of the block are the lock bits and a request's success bit (R26): the lock step (R151), the
release of a free lock (R160), and the word a request returns (R133, R152). -/

namespace Sys2Proof.Machine

/-- `relFree(L, w)` (R160), with the free choice `choice` where `P_REL_FREE = both`. -/
def relFree (p : Config.RelFree) (choice : Bool) (L : Lock) (w : Option Bool) : Bool × Lock :=
  match p with
  | .succeed => (true, ⟨false, w.getD L.value⟩)
  | .fail => (false, L)
  | .both => (choice, if choice then ⟨false, w.getD L.value⟩ else L)

/-- `lockStep(L, kind)` (R151): the success bit and the lock after. -/
def lockStep (p : Config.RelFree) (choice : Bool) (L : Lock) : LockKind → Bool × Lock
  | .acqNV => if L.held then (false, L) else (true, ⟨true, L.value⟩)
  | .acqV v => if !L.held && L.value == v then (true, ⟨true, v⟩) else (false, L)
  | .relNV => if L.held then (true, ⟨false, L.value⟩) else relFree p choice L none
  | .relV v => if L.held then (true, ⟨false, v⟩) else relFree p choice L (some v)

/-- A request of this kind on this lock draws a free choice: a release of a free lock under `both` (R160). -/
def lockDraws (p : Config.RelFree) (L : Lock) : LockKind → Bool
  | .acqNV => false
  | .acqV _ => false
  | .relNV => !L.held && p == .both
  | .relV _ => !L.held && p == .both

/-- The place of a request kind in `OkBits`. -/
def lockKindIx : LockKind → Fin 6
  | .acqNV => 0
  | .acqV false => 1
  | .acqV true => 2
  | .relNV => 3
  | .relV false => 4
  | .relV true => 5

/-- `LOCK_OK_BIT(kind, op)` (R133). -/
def lockOkBit (p : Config.Params) (k : TileKind) (q : LockKind) : Nat :=
  match k with
  | .ct => (p.okBitCt[lockKindIx q]).val
  | .bt => (p.okBitBt[lockKindIx q]).val

/-- The word a lock request returns: the success bit at `LOCK_OK_BIT`, every other bit 0 (R133, R152). -/
def lockWord (p : Config.Params) (k : TileKind) (q : LockKind) (ok : Bool) : Word :=
  setField ok.toNat (lockOkBit p k q) 1

end Sys2Proof.Machine
end

