-- ==== Sys2Proof/Machine/Memory.lean ====
section
/-! DEFINITION. Data memory (R34, R70, R73): little-endian 32-bit words over a canonical list of bytes, and the races of
R83: which writes an agent is not ordered after, and what a racing read may return. -/

namespace Sys2Proof.Machine

/-! ### Bytes and words -/

/-- The byte at a byte address; none where nothing has written it (R34). -/
def readByte : Memory → Nat → Option Byte
  | [], _ => none
  | (k, b) :: m, a => if k = a then some b else readByte m a

/-- Set one byte, keeping the addresses strictly rising. -/
def writeByte : Memory → Nat → Byte → Memory
  | [], a, x => [(a, x)]
  | (k, b) :: m, a, x =>
    if a < k then (a, x) :: (k, b) :: m else if a = k then (a, x) :: m else (k, b) :: writeByte m a x

/-- The canonical form of a data memory of `words` words: addresses strictly rising and inside it (R34).  An unlisted byte
reads as no value, so no entry equals what an unlisted byte reads as. -/
abbrev Memory.wf (words : Nat) (m : Memory) : Prop :=
  m.Pairwise (fun x y => x.1 < y.1) ∧ ∀ x ∈ m, x.1 < 4 * words

/-- The byte address of byte `b` of word `wa` (R70). -/
def byteAddr (wa : Nat) (b : Nat) : Nat := 4 * wa + b

/-- The word at a word address, little-endian (R70); none where a byte of it has not been written. -/
def readWord (m : Memory) (wa : Nat) : Option Word :=
  match readByte m (byteAddr wa 0), readByte m (byteAddr wa 1), readByte m (byteAddr wa 2), readByte m (byteAddr wa 3) with
  | some b0, some b1, some b2, some b3 => some (b3 ++ b2 ++ b1 ++ b0)
  | _, _, _, _ => none

/-- `MemWrite` (R73): byte `b` of word `wa` becomes bits `[8b+7 : 8b]` of `v` (R70). -/
def writeWord (m : Memory) (wa : Nat) (v : Word) : Memory :=
  let m0 := writeByte m (byteAddr wa 0) (v.extractLsb' 0 8)
  let m1 := writeByte m0 (byteAddr wa 1) (v.extractLsb' 8 8)
  let m2 := writeByte m1 (byteAddr wa 2) (v.extractLsb' 16 8)
  writeByte m2 (byteAddr wa 3) (v.extractLsb' 24 8)

/-! ### Races (R83; log 12) -/

/-- What a write by agent `who` at word `wa` of tile `t` does to one earlier record: the writer's own reads, which find the
word it wrote, race with it no more (R90).  No agent is ordered after that record, and no lock carries it (R83; log 12). -/
def WriteRec.overwrite (who : Agent) (t : TileId) (wa : Nat) (r : WriteRec) : WriteRec :=
  { r with overBy := if r.t = t ∧ r.wa = wa ∧ who ∉ r.overBy then who :: r.overBy else r.overBy }

/-- Record a write of `v` by agent `who` at word `wa` of tile `t`, over the word `old`. -/
def noteWrite (who : Agent) (t : TileId) (wa : Nat) (old : Option Word) (v : Word) (ws : List WriteRec) : List WriteRec :=
  ws.map (WriteRec.overwrite who t wa)
    ++ [{ t := t, wa := wa, old := old, new := v, known := [who], locks := [], overBy := [] }]

/-- What a successful request of lock `l` by `who` does to one record: `who` is ordered after a write the lock carries,
and the lock carries every write `who` is ordered after (R83). -/
def WriteRec.lock (who : Agent) (l : TileId × LockIx) (r : WriteRec) : WriteRec :=
  let known := if l ∈ r.locks ∧ who ∉ r.known then who :: r.known else r.known
  { r with known := known, locks := if who ∈ known ∧ l ∉ r.locks then l :: r.locks else r.locks }

/-- A successful lock request orders the requester's accesses, on whatever tile they are (R83). -/
def noteLock (who : Agent) (l : TileId × LockIx) (ws : List WriteRec) : List WriteRec := ws.map (WriteRec.lock who l)

/-- A read of word `wa` of tile `t` by `who` races with the recorded write: the same word, no order (R83), and `who` has not
written the word since (R90). -/
def WriteRec.races (who : Agent) (t : TileId) (wa : Nat) (r : WriteRec) : Bool :=
  decide (r.t = t) && decide (r.wa = wa) && decide (who ∉ r.known) && decide (who ∉ r.overBy)

/-- The words of the writes that a read races with: of each the word before it and the word it wrote. -/
def racingWords (who : Agent) (t : TileId) (wa : Nat) (ws : List WriteRec) : List (Option Word) :=
  (ws.filter fun r => r.races who t wa).flatMap fun r => [r.old, some r.new]

/-- What a read returns, drawing from free values `d` (which word) and `d + 1` (its value where it is not written): the
word in memory, or, where the read races, any of it and the old and new words of the racing writes (R73, R83). -/
def readDrawn (cur : Option Word) (olds : List (Option Word)) (d : Nat) : Word :=
  ((cur :: olds).getD (Config.freeNat d % (olds.length + 1)) cur).getD (Config.freeWord (d + 1))

/-- A read draws nothing where the word is written and no write races with it. -/
def readDraws (cur : Option Word) (olds : List (Option Word)) : Bool := cur.isNone || !olds.isEmpty

/-- What a read returns that finds the word `cur` and races with the words `olds` (R73, R83). -/
def readResult (cur : Option Word) (olds : List (Option Word)) (d : Nat) : Word :=
  match cur, olds with
  | some v, [] => v
  | cur, olds => readDrawn cur olds d

end Sys2Proof.Machine
end

