-- ==== Sys2Proof/Machine/Ops.lean ====
section
/-! DEFINITION. The named operations over the state: tile updates, raising a fault and refusing (R372, R373; the block
has no exception entry and no return from one, R380, R381), results returned to the host, lock requests (R152, R156),
data-memory accesses (R73), stream queues (R47), register reads (R140) and command checks (R378). -/

namespace Sys2Proof.Machine

/-- The outcome of a meaning. -/
abbrev Result := Host.Outcome State Fault Refusal

/-! ### Tiles -/

/-- Tile `t`. -/
def State.tile (s : State) (t : TileId) : Tile := s.tiles[t]

/-- The kind of tile `t`. -/
def State.kind (s : State) (t : TileId) : TileKind := (s.tile t).ref.kind

/-- Replace tile `t`. -/
def State.setTile (s : State) (t : TileId) (T : Tile) : State := { s with tiles := s.tiles.set t T }

/-- Update tile `t`. -/
def State.modTile (s : State) (t : TileId) (f : Tile → Tile) : State := s.setTile t (f (s.tile t))

/-- `Layout` of tile `t`'s kind (R6). -/
def State.layout (s : State) (t : TileId) : Config.Layout := s.params.layout (s.kind t)

/-- The system address of a tile-local offset (R21, R100). -/
def State.sysAddr (s : State) (t : TileId) (off : Nat) : Nat := (s.tile t).ref.base + off

/-- The tile and the tile-local offset of a system address: the first tile whose register space holds it (R21, R33). -/
def State.locate (s : State) (addr : Nat) : Option (TileId × Nat) :=
  ((List.finRange 2).find? fun t => decide ((s.tile t).ref.base ≤ addr ∧ addr < (s.tile t).ref.base + 2 ^ s.params.wOff)).map
    fun t => (t, addr - (s.tile t).ref.base)

/-! ### Faults and refusals -/

/-- `raise Fault(name, info)` (R372): the record is added to `faults` and nothing else changes. -/
def State.raise (s : State) (f : Fault) : State := { s with faults := s.faults ++ [f] }

/-- `refuse(name)` (R373): `refused` becomes 1 and nothing else changes. -/
def State.refuse (s : State) (r : Refusal) : State := { s with refusal := some r }

/-- A fault that the next step raises, so that the step that raises it has no other effect (R372; log 10). -/
def State.raiseNext (s : State) (f : Fault) : State := { s with pending := some f }

/-- The execution has ended, or ends with its next step (R372, R373). -/
def State.ended (s : State) : Bool := !s.faults.isEmpty || s.refusal.isSome || s.pending.isSome

/-! ### Free values -/

/-- `n` free values have been drawn. -/
def State.drew (s : State) (n : Nat) : State := { s with draws := s.draws + n }

/-! ### The host's side -/

/-- The word a host read returns. -/
def State.hostReads (s : State) (w : Word) : State := { s with host := { s.host with readData := w } }

/-- A command returns its result (R371). -/
def State.ret (s : State) (r : CmdResult) : State := { s with host := { s.host with result := some r } }

/-- A command begins: its transactions come before the rest of the host's program, and it has not returned (log 14). -/
def State.begin (s : State) (ops : List HostOp) : State :=
  { s with host := { s.host with queue := ops ++ s.host.queue, result := none } }

/-- The rest of the host's program. -/
def State.setQueue (s : State) (q : List HostOp) : State := { s with host := { s.host with queue := q } }

/-- The engine instance `e`; one that does not exist has the value of its creation (R50; log 13). -/
def State.engine (s : State) (e : TileId) : Eng := (s.host.eng[e]).getD .created

/-- Set the engine instance `e`. -/
def State.setEngine (s : State) (e : TileId) (g : Eng) : State :=
  { s with host := { s.host with eng := s.host.eng.set e (some g) } }

/-- The first failing check of a command, in the order its rule lists them (R378). -/
def firstErr : List (Bool × ErrReason) → Option ErrReason
  | [] => none
  | (ok, e) :: rest => if ok then firstErr rest else some e

/-- A command: the first failing check returns its reason and changes nothing else (R371, R378); otherwise `k`. -/
def checked (checks : List (Bool × ErrReason)) (s k : State) : State :=
  match firstErr checks with
  | some e => s.ret (.err e)
  | none => k

/-- A command on engine `e`: refused on a tile that is no compute tile (R193), else `k`. -/
def onEngine (e : TileId) (s k : State) : State := if s.kind e = .ct then k else s.refuse .btDma

/-! ### Transactions -/

/-- A transaction whose row is mapped on tiles of kind `k` only: elsewhere its offset is unmapped (R79, R141; log 20). -/
def onKind (k : TileKind) (t : TileId) (off : Nat) (s r : State) : State :=
  if s.kind t = k then r else s.raise (.unmapped off)

/-- A transaction at an index that only `n` of the tile's registers have (R141). -/
def below (i n off : Nat) (s r : State) : State := if i < n then r else s.raise (.unmapped off)

/-- A host read of a register that holds `w` (R140): reserved bits last written 1 are drawn. -/
def State.hostReadsReg (s : State) (mask w : Word) : State :=
  (s.hostReads (readBack mask w s.draws)).drew (if w &&& ~~~mask = 0 then 0 else 1)

/-- A cell after a host write of `v` (R22). -/
def RegCell.write (v : Word) : RegCell := ⟨v, true⟩

/-! ### Locks -/

/-- The success bit of a request of kind `q` on lock `l` of tile `t` (R151). -/
def State.lockOk (s : State) (t : TileId) (l : LockIx) (q : LockKind) : Bool :=
  (lockStep s.params.relFree (Config.freeBit s.draws) (s.tile t).lock[l] q).1

/-- One lock request by agent `who` (R151, R152, R156): the lock after it, the free choice it may draw, and on success
the ordering of the requester's data accesses (R83). -/
def State.lockRequest (s : State) (who : Agent) (t : TileId) (l : LockIx) (q : LockKind) : State :=
  let L := (s.tile t).lock[l]
  let r := lockStep s.params.relFree (Config.freeBit s.draws) L q
  { (s.modTile t fun T => { T with lock := T.lock.set l r.2 }).drew (if lockDraws s.params.relFree L q then 1 else 0) with
    writes := if r.1 then noteLock who (t, l) s.writes else s.writes }

/-- A host read at a lock-request offset (R152). -/
def State.hostLock (s : State) (t : TileId) (l : LockIx) (q : LockKind) : State :=
  (s.lockRequest .host t l q).hostReads (lockWord s.params (s.kind t) q (s.lockOk t l q))

/-! ### Data memory -/

/-- The words that a read of `wa` of tile `t` by agent `who` races with (R83). -/
def State.racing (s : State) (who : Agent) (t : TileId) (wa : Nat) : List (Option Word) := racingWords who t wa s.writes

/-- The word agent `who` reads at `wa` of tile `t` (`MemRead`, R73, R83). -/
def State.dmValue (s : State) (who : Agent) (t : TileId) (wa : Nat) : Word :=
  readResult (readWord (s.tile t).dm wa) (s.racing who t wa) s.draws

/-- The free values that read draws. -/
def State.dmDrew (s : State) (who : Agent) (t : TileId) (wa : Nat) : State :=
  s.drew (if readDraws (readWord (s.tile t).dm wa) (s.racing who t wa) then 2 else 0)

/-- `MemWrite` by agent `who` (R73), recorded as a write the other agents may race with (R83). -/
def State.dmWrite (s : State) (who : Agent) (t : TileId) (wa : Nat) (v : Word) : State :=
  { s.modTile t fun T => { T with dm := writeWord T.dm wa v } with
    writes := noteWrite who t wa (readWord (s.tile t).dm wa) v s.writes }

/-! ### Stream queues -/

/-- A queue has space (R47). -/
def hasSpace (depth : Nat) (q : List StreamWord) : Bool := decide (q.length < depth)

/-- Append a word to the input queue of slave `p`. -/
def Tile.pushIn (T : Tile) (p : SlaveId) (w : StreamWord) : Tile := { T with inQ := T.inQ.set p (T.inQ[p] ++ [w]) }

/-- Remove the head of the input queue of slave `p`. -/
def Tile.popIn (T : Tile) (p : SlaveId) : Tile := { T with inQ := T.inQ.set p T.inQ[p].tail }

/-- Remove the head of the output queue of master `m`. -/
def Tile.popOut (T : Tile) (m : MasterId) : Tile := { T with outQ := T.outQ.set m T.outQ[m].tail }

/-- Append a word to the output queue of every master in `ms`, once each. -/
def Tile.pushOut (T : Tile) (ms : List MasterId) (w : StreamWord) : Tile :=
  { T with outQ := Vector.ofFn fun m : MasterId => if m ∈ ms then T.outQ[m] ++ [w] else T.outQ[m] }

/-- Every master in `ms` has space. -/
def Tile.spaceAll (T : Tile) (depth : Nat) (ms : List MasterId) : Bool := ms.all fun m => hasSpace depth T.outQ[m]

/-! ### Walkers -/

/-- Set walker `c`. -/
def Tile.setWalker (T : Tile) (c : ChIx) (w : Walker) : Tile := { T with walker := T.walker.set c w }

/-- `walkerReset(c)` (R257). -/
def Tile.resetWalker (T : Tile) (c : ChIx) : Tile := T.setWalker c .powerOn

end Sys2Proof.Machine
end

