-- ==== Sys2Proof/Machine/Bd.lean ====
section
/-! DEFINITION. The hardware buffer-descriptor words: BD_WR (R191, R269), BD_RD (R192). -/

namespace Sys2Proof.Machine

/-- Some walker is executing descriptor `n`: its phase is neither Idle nor Fetch and its `cur` is `n` (R191). -/
def Tile.bdInUse (T : Tile) (n : BdIx) : Bool :=
  (List.finRange 4).any fun c =>
    T.walker[c].phase != .idle && T.walker[c].phase != .fetch && T.walker[c].cur == n

/-- The words of a descriptor after a write of word `k`; a write of word 6 sets `abCur[n]` to A (R46, R191). -/
def Tile.writeBd (T : Tile) (n : BdIx) (k : BdWordIx) (v : Word) : Tile :=
  { T with
    bdw := T.bdw.set n (T.bdw[n].set k (.write v))
    abCur := if k = 6 then T.abCur.set n .a else T.abCur }

/-- BD_WR (R191).  A write to a descriptor in use is performed and, under `P_BD_INUSE_WRITE = fault`, faults (R269); the
fault is raised by the next step, so that the step that raises it has no other effect (R372; log 10). -/
def execBdWr (t : TileId) (n : BdIx) (k : BdWordIx) (v : Word) (s : State) : Result :=
  let s1 := s.modTile t fun T => T.writeBd n k v
  .next (onKind .ct t (bdOff (s.layout t) n k) s
    (if (s.tile t).bdInUse n && s.params.bdInUse == .fault then s1.raiseNext (.bdInUseWrite n) else s1))

/-- BD_RD (R192). -/
def execBdRd (t : TileId) (n : BdIx) (k : BdWordIx) (s : State) : Result :=
  let r := (s.tile t).bdw[n][k]
  .next (onKind .ct t (bdOff (s.layout t) n k) s
    (if r.written then s.hostReadsReg (bdMask (s.layout t).bd k) r.val else s.raise (.unwritten (bdOff (s.layout t) n k))))

end Sys2Proof.Machine
end

