-- ==== Sys2Proof/Machine/BdCmd.lean ====
section
/-! DEFINITION. The setters of the BD mirror (R193 to R201) and the commit (R203). -/

namespace Sys2Proof.Machine

/-- The BD index a checked command names. -/
def bdIx (n : Nat) : BdIx := Fin.ofNat 16 n

/-- The check every BD command makes first (R193). -/
def bdCheck (n : Nat) : Bool × ErrReason := (decide (n < 16), .badBdIndex)

/-- Change mirror BD `n` of engine `e`; no transaction is issued (R193). -/
def State.modBd (s : State) (e : TileId) (n : Nat) (f : MirrorBd → MirrorBd) : State :=
  s.setEngine e { s.engine e with bd := (s.engine e).bd.set (bdIx n) (f (s.engine e).bd[bdIx n]) }

/-- A setter: its checks, then the change of the mirror BD. -/
def setter (e : TileId) (n : Nat) (checks : List (Bool × ErrReason)) (f : MirrorBd → MirrorBd) (s : State) : State :=
  onEngine e s (checked (bdCheck n :: checks) s ((s.modBd e n f).ret .ok))

/-- The slot fields after `bd.setLock` (R194): a value is stored, with its enable bit, only where one is given. -/
def SlotFields.setLock (f : SlotFields) (lockId relEn : Nat) (rv : Option Bool) (acqEn : Nat) (av : Option Bool) : SlotFields :=
  { f with
    lockId := BitVec.ofNat 4 lockId, relEn := relEn == 1, acqEn := acqEn == 1
    relVal := rv.getD f.relVal, relValEn := rv.isSome || f.relValEn
    acqVal := av.getD f.acqVal, acqValEn := av.isSome || f.acqValEn }

/-- Change the fields of a slot. -/
def MirrorBd.modSlot (b : MirrorBd) (x : SlotArg) (f : SlotFields → SlotFields) : MirrorBd :=
  match x with
  | .a => { b with fields := { b.fields with a := f b.fields.a } }
  | .b => { b with fields := { b.fields with b := f b.fields.b } }
  | .other => b

/-- bd.setLock (R194). -/
def execBdSetLock (e : TileId) (n : Nat) (x : SlotArg) (lockId relEn : Nat) (relVal : ValArg) (acqEn : Nat)
    (acqVal : ValArg) (s : State) : Result :=
  let rv := readValArg s.params.noValue relVal
  let av := readValArg s.params.noValue acqVal
  .next (setter e n
    [(x != .other, .badSlot), (decide (lockId < 16), .badLockId), (isFlag relEn && isFlag acqEn, .badFlag),
     (rv.isSome && av.isSome, .badLockValue)]
    (fun b => b.modSlot x fun f => f.setLock lockId relEn (rv.getD none) acqEn (av.getD none)) s)

/-- The mirror BD after `bd.set2D` (R195): increment and wrap are stored minus one. -/
def MirrorBd.set2D (b : MirrorBd) (axis : AxisArg) (incr wrap offset : Nat) : MirrorBd :=
  match axis with
  | .x => { b with fields := { b.fields with
      xIncr := BitVec.ofNat 8 (incr - 1), xWrap := BitVec.ofNat 8 (wrap - 1), xOff := BitVec.ofNat 13 offset } }
  | .y => { b with fields := { b.fields with
      yIncr := BitVec.ofNat 8 (incr - 1), yWrap := BitVec.ofNat 8 (wrap - 1), yOff := BitVec.ofNat 13 offset } }
  | .other => b

/-- bd.set2D (R195). -/
def execBdSet2D (e : TileId) (n : Nat) (axis : AxisArg) (incr wrap offset : Nat) (s : State) : Result :=
  .next (setter e n
    [(axis != .other, .badAxis), (decide (1 ≤ incr ∧ incr ≤ 256), .fieldTooWide),
     (decide (1 ≤ wrap ∧ wrap ≤ 256), .fieldTooWide), (decide (offset < 2 ^ 13), .fieldTooWide)]
    (fun b => b.set2D axis incr wrap offset) s)

/-- bd.setInterleave (R196). -/
def execBdSetInterleave (e : TileId) (n en : Nat) (which : SlotArg) (count current : Nat) (s : State) : Result :=
  .next (setter e n
    [(isFlag en, .badFlag), (which != .other, .badSlot), (count % 4 == 0, .intlvCountNotMult4),
     (decide (count < 256), .fieldTooWide), (decide (current < 256), .fieldTooWide)]
    (fun b => { b with fields := { b.fields with
      intlvEn := en == 1, intlvWhich := which == .b, intlvCnt := BitVec.ofNat 8 count, intlvCur := BitVec.ofNat 8 current } }) s)

/-- The FIFO alignment mask (R197): a word count must be a multiple of 4 where a FIFO mode is on. -/
def fifoMask (fifoMode : Nat) : Nat := if fifoMode = 0 then 0 else 3

/-- bd.setAddrLenMode (R197): the two low bits of a length are discarded; addresses and length are in words, the length
minus one. -/
def execBdSetAddrLenMode (e : TileId) (n baseA baseB lengthBytes dbEn fifoMode : Nat) (s : State) : Result :=
  let w := lengthBytes / 4
  .next (setter e n
    [(decide (fifoMode < 3), .badFifoMode), (baseA % 4 == 0 && baseB % 4 == 0, .misaligned),
     (w &&& fifoMask fifoMode == 0, .lengthFifoAlign), (isFlag dbEn, .badFlag),
     (decide (baseA / 4 < 2 ^ 13) && decide (baseB / 4 < 2 ^ 13), .fieldTooWide), (decide (1 ≤ w), .lengthZero),
     (decide (w - 1 < 2 ^ 13), .fieldTooWide)]
    (fun b => { b with fields := { b.fields with
      a := { b.fields.a with base := BitVec.ofNat 13 (baseA / 4) }
      b := { b.fields.b with base := BitVec.ofNat 13 (baseB / 4) }
      length := BitVec.ofNat 13 (w - 1), abMode := dbEn == 1, fifoMode := BitVec.ofNat 2 fifoMode } }) s)

/-- bd.setNext (R198): the chain-enable bit is derived from the sentinel. -/
def execBdSetNext (e : TileId) (n next : Nat) (s : State) : Result :=
  .next (setter e n [(isBdOrSentinel next, .badNextBd)]
    (fun b => { b with nextBd := BitVec.ofNat 8 next, fields := { b.fields with nextEn := next != 0xFF } }) s)

/-- bd.setPacket (R199). -/
def execBdSetPacket (e : TileId) (n en type id : Nat) (s : State) : Result :=
  .next (setter e n
    [(isFlag en, .badFlag), (decide (type < 32), .fieldTooWide), (decide (id < 32), .fieldTooWide)]
    (fun b => { b with fields := { b.fields with
      pktEn := en == 1, pktType := BitVec.ofNat 5 type, pktId := BitVec.ofNat 5 id } }) s)

/-- bd.clear (R200). -/
def execBdClear (e : TileId) (n : Nat) (s : State) : Result := .next (setter e n [] (fun _ => .cleared) s)

/-- Every mirror BD cleared (R201). -/
def State.clearBds (s : State) (e : TileId) : State := s.setEngine e { s.engine e with bd := .replicate 16 .cleared }

/-- bd.clearAll (R201). -/
def execBdClearAll (e : TileId) (s : State) : Result := .next (onEngine e s ((s.clearBds e).ret .ok))

/-- The seven writes of a commit, in ascending word order (R203). -/
def commitOps (L : Config.Layout) (e : TileId) (n : BdIx) (b : MirrorBd) : List HostOp :=
  (List.finRange 7).map fun k => .bus e 32 true (bdOff L n k) (packBd L.bd b)[k]

/-- bd.commit (R203): seven transactions, between which other agents may step (R74). -/
def execBdCommit (e : TileId) (n : Nat) (s : State) : Result :=
  .next (onEngine e s (checked [bdCheck n] s
    (s.begin (commitOps (s.layout e) e (bdIx n) (s.engine e).bd[bdIx n] ++ [.ret .ok]))))

end Sys2Proof.Machine
end

