-- ==== Sys2Proof/Machine/ChCmd.lean ====
section
/-! DEFINITION. The channel commands (R280 to R285). -/

namespace Sys2Proof.Machine

/-- The host operations of a sub-command, or the reason it returns. -/
abbrev SubCommand := Except ErrReason (List HostOp)

/-- A sub-command: its checks, then its operations. -/
def subCommand (checks : List (Bool × ErrReason)) (ops : List HostOp) : SubCommand :=
  match firstErr checks with
  | some e => .error e
  | none => .ok ops

/-- Sub-commands in order, stopping at the first that returns an error (R282, R377). -/
def inOrder : List SubCommand → List HostOp × CmdResult
  | [] => ([], .ok)
  | .error e :: _ => ([], .err e)
  | .ok ops :: rest => (ops ++ (inOrder rest).1, (inOrder rest).2)

/-- The checks and the write of `ch.control` (R280). -/
def controlOps (L : Config.Layout) (e : TileId) (c reset enable : Nat) : SubCommand :=
  subCommand [(decide (c < 4), .badChannel), (isFlag reset && isFlag enable, .badFlag)]
    [.bus e 32 true (ctrlOff L c) (ctrlWord L reset enable)]

/-- The checks, the write (none for the sentinel) and the bookkeeping of `ch.setStartBd` (R281). -/
def startBdOps (L : Config.Layout) (e : TileId) (c bd : Nat) : SubCommand :=
  subCommand [(decide (c < 4), .badChannel), (isBdOrSentinel bd, .badStartBd)]
    ((if bd = 0xFF then []
      else [.bus e 32 true (startBdOff L c) (startBdWord L bd)])
      ++ [.noteStartBd e (Fin.ofNat 4 c) (BitVec.ofNat 8 bd)])

/-- `ch.reset` (R282): its check, then control 1 0, control 0 0, start BD sentinel. -/
def resetOps (L : Config.Layout) (e : TileId) (c : Nat) : List HostOp × CmdResult :=
  inOrder [subCommand [(decide (c < 4), .badChannel)] [], controlOps L e c 1 0, controlOps L e c 0 0, startBdOps L e c 0xFF]

/-- `ch.resetAll` (R283): all four channels, reporting only whether any failed. -/
def resetAllOps (L : Config.Layout) (e : TileId) : List HostOp × CmdResult :=
  let rs := (List.range 4).map (resetOps L e)
  (rs.flatMap Prod.fst, if rs.all (fun r => r.2 == .ok) then .ok else .err .orchestrationFailure)

/-- A command that performs the operations and returns the result. -/
def State.perform (s : State) (r : List HostOp × CmdResult) : State := s.begin (r.1 ++ [.ret r.2])

/-- A command whose only sub-command is `c`: a failed check returns at once. -/
def runSub (c : SubCommand) (s : State) : State :=
  match c with
  | .error e => s.ret (.err e)
  | .ok ops => s.perform (ops, .ok)

/-- ch.control (R280). -/
def execChControl (e : TileId) (c reset enable : Nat) (s : State) : Result :=
  .next (onEngine e s (runSub (controlOps (s.layout e) e c reset enable) s))

/-- ch.setStartBd (R281). -/
def execChSetStartBd (e : TileId) (c bd : Nat) (s : State) : Result :=
  .next (onEngine e s (runSub (startBdOps (s.layout e) e c bd) s))

/-- ch.reset (R282). -/
def execChReset (e : TileId) (c : Nat) (s : State) : Result :=
  .next (onEngine e s (checked [(decide (c < 4), .badChannel)] s (s.perform (resetOps (s.layout e) e c))))

/-- ch.resetAll (R283). -/
def execChResetAll (e : TileId) (s : State) : Result := .next (onEngine e s (s.perform (resetAllOps (s.layout e) e)))

/-- The operations of an initialisation after the mirror is cleared (R284). -/
def initOps (L : Config.Layout) (e : TileId) : List HostOp × CmdResult :=
  let r := resetAllOps L e
  (r.1 ++ (List.finRange 4).map (fun c => .noteStartBd e c 0xFF) ++ (if r.2 = .ok then [.noteReady e] else []), r.2)

/-- dma.initialize (R284). -/
def execDmaInitialize (e : TileId) (force : Nat) (s : State) : Result :=
  .next (onEngine e s (checked [(isFlag force, .badFlag)] s
    (if (s.engine e).ready && force == 0 then s.ret .ok else (s.clearBds e).perform (initOps (s.layout e) e))))

end Sys2Proof.Machine
end

