-- ==== Sys2Proof/Machine/Channel.lean ====
section
/-! DEFINITION. The channel register transactions (R251 to R257). -/

namespace Sys2Proof.Machine

/-- A tile after a write of control register `c`: `Reset = 1` resets the walker in the same step (R251, R257). -/
def Tile.writeCtrl (T : Tile) (L : Config.Layout) (c : ChIx) (v : Word) : Tile :=
  let T1 := { T with ctrl := T.ctrl.set c (.write v) }
  if ctrlReset L v then T1.resetWalker c else T1

/-- A tile after a write of start-BD register `c`, which sets `startPending` (R253). -/
def Tile.writeStartBd (T : Tile) (c : ChIx) (v : Word) : Tile :=
  { T with startBd := T.startBd.set c (.write v), walker := T.walker.set c { T.walker[c] with startPending := true } }

/-- CH_CTRL_WR (R251). -/
def execChCtrlWr (t : TileId) (c : ChIx) (v : Word) (s : State) : Result :=
  .next (onKind .ct t (ctrlOff (s.layout t) c) s (s.modTile t fun T => T.writeCtrl (s.layout t) c v))

/-- CH_CTRL_RD (R252). -/
def execChCtrlRd (t : TileId) (c : ChIx) (s : State) : Result :=
  .next (onKind .ct t (ctrlOff (s.layout t) c) s (s.hostReadsReg (ctrlMask (s.layout t)) (s.tile t).ctrl[c].val))

/-- CH_STARTBD_WR (R253): faults where the walker is not Idle. -/
def execChStartBdWr (t : TileId) (c : ChIx) (v : Word) (s : State) : Result :=
  .next (onKind .ct t (startBdOff (s.layout t) c) s
    (if (s.tile t).walker[c].phase ≠ .idle then s.raise (.startBdBusy c)
     else s.modTile t fun T => T.writeStartBd c v))

/-- CH_STARTBD_RD (R254). -/
def execChStartBdRd (t : TileId) (c : ChIx) (s : State) : Result :=
  .next (onKind .ct t (startBdOff (s.layout t) c) s (s.hostReadsReg (startBdMask (s.layout t)) (s.tile t).startBd[c].val))

/-- CH_STATUS_RD (R255): any word. -/
def execChStatusRd (t : TileId) (i : Fin 2) (s : State) : Result :=
  .next (onKind .ct t (statusOff (s.layout t) i) s ((s.hostReads (Config.freeWord s.draws)).drew 1))

/-- CH_STATUS_WR (R256). -/
def execChStatusWr (t : TileId) (i : Fin 2) (_v : Word) (s : State) : Result :=
  .next (onKind .ct t (statusOff (s.layout t) i) s (s.raise (.reservedWrite (statusOff (s.layout t) i))))

end Sys2Proof.Machine
end

