-- ==== Sys2Proof/Machine/DataMem.lean ====
section
/-! DEFINITION. Host accesses to data memory: DM_WR (R89), DM_RD (R90). -/

namespace Sys2Proof.Machine

/-- A transaction at word `wa` of data memory (R89, R90): unmapped on a tile that has none, and at or beyond `DM_WORDS`. -/
def onWord (t : TileId) (wa : Nat) (s r : State) : State :=
  onKind .ct t (dmOff (s.layout t) wa) s (below wa s.params.dmWords (dmOff (s.layout t) wa) s r)

/-- DM_WR (R89). -/
def execDmWr (t : TileId) (wa : Nat) (v : Word) (s : State) : Result := .next (onWord t wa s (s.dmWrite .host t wa v))

/-- DM_RD (R90): a word nothing has written returns a draw. -/
def execDmRd (t : TileId) (wa : Nat) (s : State) : Result :=
  .next (onWord t wa s ((s.dmDrew .host t wa).hostReads (s.dmValue .host t wa)))

end Sys2Proof.Machine
end

