-- ==== Sys2Proof/Machine/HostCmd.lean ====
section
/-! DEFINITION. The masked poll and the lock commands (R163 to R167).  A command queues its transactions before the rest
of the host's program, so that other agents may step between them (R74, R163; log 14). -/

namespace Sys2Proof.Machine

/-- How many reads may follow a poll's first one: none for a timeout of 0, else any number (R163; log 15). -/
def pollMore (timeout d : Nat) : Nat := if timeout = 0 then 0 else Config.freeNat d

/-- A poll begins (R163). -/
def beginPoll (t : TileId) (off : Nat) (mask expected timeout : Nat) (s : State) : State :=
  (s.begin [.pollTry t off mask expected (pollMore timeout s.draws)]).drew (if timeout = 0 then 0 else 1)

/-- poll (R163). -/
def execPoll (t : TileId) (off : Nat) (mask expected timeout : Nat) (s : State) : Result :=
  .next (beginPoll t off mask expected timeout s)

/-- The checks of a lock command (R165). -/
def lockChecks (s : State) (l : Nat) (v : ValArg) : List (Bool × ErrReason) :=
  [(decide (l < 16), .badLockId), ((readValArg s.params.noValue v).isSome, .badLockValue)]

/-- The request kind of a lock command (R164). -/
def lockCmdKind (acquire : Bool) (v : Option Bool) : LockKind :=
  match acquire, v with
  | true, none => .acqNV
  | true, some b => .acqV b
  | false, none => .relNV
  | false, some b => .relV b

/-- A lock command polls the request offset for the success bit (R164 to R166). -/
def lockCommand (acquire : Bool) (t : TileId) (l : Nat) (v : ValArg) (timeout : Nat) (s : State) : State :=
  let q := lockCmdKind acquire ((readValArg s.params.noValue v).getD none)
  let bit := 2 ^ lockOkBit s.params (s.kind t) q
  checked (lockChecks s l v) s
    (beginPoll t (lockOff (s.layout t) (Fin.ofNat 16 l) q) bit bit timeout s)

/-- lock.acquire (R165). -/
def execLockAcquire (t : TileId) (l : Nat) (v : ValArg) (timeout : Nat) (s : State) : Result :=
  .next (lockCommand true t l v timeout s)

/-- lock.release (R166). -/
def execLockRelease (t : TileId) (l : Nat) (v : ValArg) (timeout : Nat) (s : State) : Result :=
  .next (lockCommand false t l v timeout s)

end Sys2Proof.Machine
end

