-- ==== Sys2Proof/Machine/Lock.lean ====
section
/-! DEFINITION. The lock-request transactions of both tile kinds (R153 to R159) and writes in the lock region (R161). -/

namespace Sys2Proof.Machine

/-- A lock-request read of a row of kind `k` (R152). -/
def lockRead (k : TileKind) (t : TileId) (l : LockIx) (q : LockKind) (s : State) : State :=
  onKind k t (lockOff (s.layout t) l q) s (s.hostLock t l q)

/-- A write in the lock region of a tile of kind `k` (R161): it changes no lock. -/
def lockWrite (k : TileKind) (t : TileId) (l : LockIx) (op : Nat) (s : State) : State :=
  let off := lockRegionOff (s.layout t) l op
  onKind k t off s (below op (s.layout t).lockStride off s (s.raise (.reservedWrite off)))

/-- LOCK_ACQ_NV_RD (R153). -/
def execLockAcqNvRd (t : TileId) (l : LockIx) (s : State) : Result := .next (lockRead .ct t l .acqNV s)

/-- LOCK_ACQ_V0_RD (R154). -/
def execLockAcqV0Rd (t : TileId) (l : LockIx) (s : State) : Result := .next (lockRead .ct t l (.acqV false) s)

/-- LOCK_ACQ_V1_RD (R155). -/
def execLockAcqV1Rd (t : TileId) (l : LockIx) (s : State) : Result := .next (lockRead .ct t l (.acqV true) s)

/-- LOCK_REL_NV_RD (R157). -/
def execLockRelNvRd (t : TileId) (l : LockIx) (s : State) : Result := .next (lockRead .ct t l .relNV s)

/-- LOCK_REL_V0_RD (R158). -/
def execLockRelV0Rd (t : TileId) (l : LockIx) (s : State) : Result := .next (lockRead .ct t l (.relV false) s)

/-- LOCK_REL_V1_RD (R159). -/
def execLockRelV1Rd (t : TileId) (l : LockIx) (s : State) : Result := .next (lockRead .ct t l (.relV true) s)

/-- LOCK_WR (R161). -/
def execLockWr (t : TileId) (l : LockIx) (op : Nat) (_v : Word) (s : State) : Result :=
  .next (lockWrite .ct t l op s)

/-- LOCK_ACQ_NV_RD_BT (R153). -/
def execLockAcqNvRdBt (t : TileId) (l : LockIx) (s : State) : Result := .next (lockRead .bt t l .acqNV s)

/-- LOCK_ACQ_V0_RD_BT (R154). -/
def execLockAcqV0RdBt (t : TileId) (l : LockIx) (s : State) : Result := .next (lockRead .bt t l (.acqV false) s)

/-- LOCK_ACQ_V1_RD_BT (R155). -/
def execLockAcqV1RdBt (t : TileId) (l : LockIx) (s : State) : Result := .next (lockRead .bt t l (.acqV true) s)

/-- LOCK_REL_NV_RD_BT (R157). -/
def execLockRelNvRdBt (t : TileId) (l : LockIx) (s : State) : Result := .next (lockRead .bt t l .relNV s)

/-- LOCK_REL_V0_RD_BT (R158). -/
def execLockRelV0RdBt (t : TileId) (l : LockIx) (s : State) : Result := .next (lockRead .bt t l (.relV false) s)

/-- LOCK_REL_V1_RD_BT (R159). -/
def execLockRelV1RdBt (t : TileId) (l : LockIx) (s : State) : Result := .next (lockRead .bt t l (.relV true) s)

/-- LOCK_WR_BT (R161). -/
def execLockWrBt (t : TileId) (l : LockIx) (op : Nat) (_v : Word) (s : State) : Result :=
  .next (lockWrite .bt t l op s)

end Sys2Proof.Machine
end

