-- ==== Sys2Proof/Machine/Port.lean ====
section
/-! DEFINITION. The stream-switch register transactions: ports (R301 to R304) and slots (R341, R342). -/

namespace Sys2Proof.Machine

/-- MCFG_WR (R301). -/
def execMcfgWr (t : TileId) (m : MasterId) (v : Word) (s : State) : Result :=
  .next (below m.val (s.params.nMasters (s.kind t)) (mcfgOff (s.layout t) m) s
    (s.modTile t fun T => { T with mcfg := T.mcfg.set m (.write v) }))

/-- MCFG_RD (R302): before the first write it returns `P_SS_POR`. -/
def execMcfgRd (t : TileId) (m : MasterId) (s : State) : Result :=
  .next (below m.val (s.params.nMasters (s.kind t)) (mcfgOff (s.layout t) m) s
    (s.hostReadsReg (mcfgMask (s.layout t)) (s.tile t).mcfg[m].val))

/-- SCFG_WR (R303). -/
def execScfgWr (t : TileId) (p : SlaveId) (v : Word) (s : State) : Result :=
  .next (below p.val (s.params.nSlaves (s.kind t)) (scfgOff (s.layout t) p) s
    (s.modTile t fun T => { T with scfg := T.scfg.set p (.write v) }))

/-- SCFG_RD (R304). -/
def execScfgRd (t : TileId) (p : SlaveId) (s : State) : Result :=
  .next (below p.val (s.params.nSlaves (s.kind t)) (scfgOff (s.layout t) p) s
    (s.hostReadsReg (scfgMask (s.layout t)) (s.tile t).scfg[p].val))

/-- SLOT_WR (R341). -/
def execSlotWr (t : TileId) (p : SlaveId) (k : SlotIx) (v : Word) (s : State) : Result :=
  .next (below p.val (s.params.nSlaves (s.kind t)) (slotOff (s.layout t) p k) s
    (s.modTile t fun T => { T with slot := T.slot.set p (T.slot[p].set k (.write v)) }))

/-- SLOT_RD (R342). -/
def execSlotRd (t : TileId) (p : SlaveId) (k : SlotIx) (s : State) : Result :=
  .next (below p.val (s.params.nSlaves (s.kind t)) (slotOff (s.layout t) p k) s
    (s.hostReadsReg (slotRegMask (s.layout t)) (s.tile t).slot[p][k].val))

end Sys2Proof.Machine
end

