-- ==== Sys2Proof/Machine/SsCmd.lean ====
section
/-! DEFINITION. The stream-switch commands (R306 to R309, R343, R344). -/

namespace Sys2Proof.Machine

/-- ss.portId (R306): pure. -/
def execSsPortId (kind : TileKind) (dir : PortDir) (cls : PortClass) (i : Nat) (s : State) : Result :=
  .next (s.ret (match portId s.params kind dir cls i with
    | some n => .value n
    | none => .err .badPort))

/-- The check that a tile has a port (R306). -/
def portCheck (q : Config.Params) (k : TileKind) (d : PortDir) (c : PortClass) (i : Nat) : Bool × ErrReason :=
  ((portId q k d c i).isSome, .badPort)

/-- The flat id of a checked port. -/
def portNo (q : Config.Params) (k : TileKind) (d : PortDir) (c : PortClass) (i : Nat) : Nat := (portId q k d c i).getD 0

/-- `ss.configureMaster` on a tile of kind `k` (R307): a disabled master's register is zeroed. -/
def masterOps (q : Config.Params) (t : TileId) (k : TileKind) (cls : PortClass) (i en pktEn cfg : Nat) : SubCommand :=
  subCommand
    [portCheck q k .master cls i, (isFlag en && isFlag pktEn, .badFlag), (decide (cfg < 256), .fieldTooWide)]
    [.bus t 32 true (mcfgOff (q.layout k) (portNo q k .master cls i))
      (if en = 0 then 0 else mcfgWord (q.layout k) pktEn cfg)]

/-- `ss.configureSlave` on a tile of kind `k` (R308). -/
def slaveOps (q : Config.Params) (t : TileId) (k : TileKind) (cls : PortClass) (i en pktEn : Nat) : SubCommand :=
  subCommand [portCheck q k .slave cls i, (isFlag en && isFlag pktEn, .badFlag)]
    [.bus t 32 true (scfgOff (q.layout k) (portNo q k .slave cls i))
      (if en = 0 then 0 else scfgWord (q.layout k) pktEn)]

/-- `ss.configureSlot` on a tile of kind `k` (R343). -/
def slotOps (q : Config.Params) (t : TileId) (k : TileKind) (cls : PortClass) (i j en id mask msel arb : Nat) : SubCommand :=
  subCommand
    [portCheck q k .slave cls i, (decide (j < 4), .badSlotIndex), (isFlag en, .badFlag),
     (decide (id < 32) && decide (mask < 32) && decide (msel < 4) && decide (arb < 8), .fieldTooWide)]
    [.bus t 32 true (slotOff (q.layout k) (portNo q k .slave cls i) j)
      (if en = 0 then 0 else slotWord (q.layout k) id mask msel arb)]

/-- ss.configureMaster (R307). -/
def execSsConfigureMaster (t : TileId) (cls : PortClass) (i en pktEn cfg : Nat) (s : State) : Result :=
  .next (runSub (masterOps s.params t (s.kind t) cls i en pktEn cfg) s)

/-- ss.configureSlave (R308). -/
def execSsConfigureSlave (t : TileId) (cls : PortClass) (i en pktEn : Nat) (s : State) : Result :=
  .next (runSub (slaveOps s.params t (s.kind t) cls i en pktEn) s)

/-- ss.connectCircuit (R309): the master in circuit mode with the slave's id, then the slave where asked. -/
def execSsConnectCircuit (t : TileId) (scls : PortClass) (si : Nat) (mcls : PortClass) (mi enSlave : Nat) (s : State) : Result :=
  let k := s.kind t
  .next (checked [portCheck s.params k .slave scls si, portCheck s.params k .master mcls mi, (isFlag enSlave, .badFlag)] s
    (s.perform (inOrder
      (masterOps s.params t k mcls mi 1 0 (portNo s.params k .slave scls si) ::
        if enSlave = 1 then [slaveOps s.params t k scls si 1 0] else []))))

/-- ss.configureSlot (R343). -/
def execSsConfigureSlot (t : TileId) (cls : PortClass) (i k en id mask msel arb : Nat) (s : State) : Result :=
  .next (runSub (slotOps s.params t (s.kind t) cls i k en id mask msel arb) s)

/-- ss.mstrPktConfig (R344): pure. -/
def execSsMstrPktConfig (drop mask arb : Nat) (s : State) : Result :=
  .next (checked [(isFlag drop, .badFlag), (decide (mask < 16) && decide (arb < 8), .fieldTooWide)] s
    (s.ret (.value (mstrPktConfigWord drop mask arb).toNat)))

end Sys2Proof.Machine
end

