-- ==== Sys2Proof/Machine/Switch.lean ====
section
/-! DEFINITION. The stream switch: circuit routing (R310 to R313), classification (R350), targets (R355), packet start
(R352), forwarding and packet end (R353, R354, R357, R358), and environment steps at its ports (R314). -/

namespace Sys2Proof.Machine

/-- The master ids of a tile. -/
def masters (q : Config.Params) (k : TileKind) : List MasterId := portsBelow (q.nMasters k)

/-- The layout of a tile's registers. -/
def Tile.layout (T : Tile) (q : Config.Params) : Config.Layout := q.layout T.ref.kind

/-- Master `m` is an enabled circuit master (R310). -/
def Tile.circuitMaster (T : Tile) (q : Config.Params) (m : MasterId) : Bool :=
  masterEnable (T.layout q) T.mcfg[m].val && !masterPacket (T.layout q) T.mcfg[m].val

/-- Master `m` is an enabled packet master (R355). -/
def Tile.packetMaster (T : Tile) (q : Config.Params) (m : MasterId) : Bool :=
  masterEnable (T.layout q) T.mcfg[m].val && masterPacket (T.layout q) T.mcfg[m].val

/-- Slave `p` is a port of the tile and enabled, in packet mode or not (R131, R315). -/
def Tile.slaveIn (T : Tile) (q : Config.Params) (p : SlaveId) (packet : Bool) : Bool :=
  decide (p.val < q.nSlaves T.ref.kind) && slaveEnable (T.layout q) T.scfg[p].val
    && slavePacket (T.layout q) T.scfg[p].val == packet

/-- `C(s)`: the circuit masters that take their words from slave `p` (R310, R312). -/
def Tile.circuitTargets (T : Tile) (q : Config.Params) (p : SlaveId) : List MasterId :=
  (masters q T.ref.kind).filter fun m =>
    T.circuitMaster q m && (mcfgConfig (T.layout q) T.mcfg[m].val).toNat == p.val

/-- `targets(a, ms)` (R355). -/
def Tile.packetTargets (T : Tile) (q : Config.Params) (a : BitVec 3) (ms : BitVec 2) : List MasterId :=
  (masters q T.ref.kind).filter fun m =>
    T.packetMaster q m && mcfgArb (T.layout q) T.mcfg[m].val == a && mcfgAccepts (T.layout q) T.mcfg[m].val ms

/-- The configuration faults the switch may raise at any step: a circuit master whose source names no slave (R310), an
enabled packet master whose arbiter is out of range (R355). -/
def Tile.switchFaults (T : Tile) (q : Config.Params) : List Fault :=
  ((masters q T.ref.kind).filter fun m =>
      T.circuitMaster q m
        && decide (q.nSlaves T.ref.kind ≤ (mcfgConfig (T.layout q) T.mcfg[m].val).toNat)).map Fault.circuitSource
  ++ ((masters q T.ref.kind).filter fun m =>
      T.packetMaster q m && decide (q.nArb ≤ (mcfgArb (T.layout q) T.mcfg[m].val).toNat)).map Fault.arbiterRangeMaster

/-- A step of the switch of tile `t`: where it may raise a configuration fault, whether it does, and which, is drawn
(R310, R355; log 16); otherwise the step is `k`. -/
def switchStep (t : TileId) (s : State) (k : State → State) : State :=
  match (s.tile t).switchFaults s.params with
  | [] => k s
  | f :: fs =>
    if Config.freeBit s.draws then s.raise ((f :: fs).getD (Config.freeNat (s.draws + 1) % (fs.length + 1)) f)
    else k (s.drew 1)

/-! ### Circuit mode -/

/-- The circuit step of slave `p` is enabled (R310, R358). -/
def Tile.circuitReady (T : Tile) (q : Config.Params) (p : SlaveId) : Bool :=
  T.slaveIn q p false && T.pktRoute[p].isNone && !(T.circuitTargets q p).isEmpty
    && T.spaceAll q.portDepth (T.circuitTargets q p)

/-- One circuit word (R310, R313): it goes unchanged to every circuit master of the slave in one step. -/
def circuitMove (t : TileId) (p : SlaveId) (s : State) : State :=
  match (s.tile t).inQ[p], (s.tile t).circuitReady s.params p with
  | w :: _, true => s.modTile t fun T => (T.popIn p).pushOut (T.circuitTargets s.params p) w
  | _, _ => s

/-- SW_CIRCUIT (R310). -/
def execSwCircuit (t : TileId) (p : SlaveId) (s : State) : Result := .next (switchStep t s (circuitMove t p))

/-! ### Packet mode -/

/-- The enabled slots of slave `p` whose `Id` has a 1 outside their `Mask` (R350). -/
def Tile.badSlots (T : Tile) (q : Config.Params) (p : SlaveId) : List SlotIx :=
  let L := T.layout q
  (List.finRange 4).filter fun k =>
    slotEnable L T.slot[p][k].val && slotId L T.slot[p][k].val &&& ~~~slotMask L T.slot[p][k].val != 0

/-- `M`: the enabled slots of slave `p` that match a header id (R350). -/
def Tile.matchingSlots (T : Tile) (q : Config.Params) (p : SlaveId) (id : BitVec 5) : List SlotIx :=
  let L := T.layout q
  (List.finRange 4).filter fun k =>
    slotEnable L T.slot[p][k].val
      && id &&& slotMask L T.slot[p][k].val == slotId L T.slot[p][k].val &&& slotMask L T.slot[p][k].val

/-- `choose k ∈ M` (R350), drawing only where several slots match. -/
def pickSlot (d : Nat) (k : SlotIx) : List SlotIx → SlotIx
  | [] => k
  | ks => (k :: ks).getD (Config.freeNat d % (ks.length + 1)) k

/-- `classify(s, id)` and the packet start it leads to (R350, R352, R355). -/
def startPacket (t : TileId) (p : SlaveId) (id : BitVec 5) (s : State) : State :=
  let T := s.tile t
  match T.badSlots s.params p, T.matchingSlots s.params p id with
  | k :: _, _ => s.raise (.slotIdOutsideMask p k)
  | [], [] => s.raise (.noSlotMatch p id)
  | [], k :: ks =>
    let j := pickSlot s.draws k ks
    let a := slotArb (s.layout t) T.slot[p][j].val
    let ms := slotMsel (s.layout t) T.slot[p][j].val
    let ts := T.packetTargets s.params a ms
    if s.params.nArb ≤ a.toNat then s.raise (.arbiterRangeSlot p j)
    else if ts.isEmpty then s.raise (.noPacketRoute p a ms)
    else (s.modTile t fun T => { T with pktRoute := T.pktRoute.set p (some ⟨ts, a, true⟩) }).drew
      (if ks.isEmpty then 0 else 1)

/-- The packet-start step of slave `p` (R352): the header stays in the queue. -/
def packetStart (t : TileId) (p : SlaveId) (s : State) : State :=
  let T := s.tile t
  match T.inQ[p] with
  | [] => s
  | h :: _ =>
    if T.slaveIn s.params p true && T.pktRoute[p].isNone then startPacket t p (hdrId s.params.header h.data) s else s

/-- SW_PKT_START (R352). -/
def execSwPktStart (t : TileId) (p : SlaveId) (s : State) : Result := .next (switchStep t s (packetStart t p))

/-- The targets that receive the next word of a packet: those that drop headers do not receive the header (R353, R357). -/
def Tile.receivers (T : Tile) (q : Config.Params) (r : PktRoute) : List MasterId :=
  r.targets.filter fun m => !(r.first && mcfgDrop (T.layout q) T.mcfg[m].val)

/-- The place of an arbiter in `arbOwner`. -/
def arbIx (a : BitVec 3) : Fin 8 := Fin.ofNat 8 a.toNat

/-- Slave `p` may use arbiter `a`: it is free or the slave's own (R353). -/
def Tile.arbFree (T : Tile) (a : BitVec 3) (p : SlaveId) : Bool :=
  T.arbOwner[arbIx a] == none || T.arbOwner[arbIx a] == some p

/-- No master that the packet of slave `p` goes to is in the midst of another slave's packet (R84, R356; log 17). -/
def Tile.mastersFree (T : Tile) (p : SlaveId) (r : PktRoute) : Bool :=
  (List.finRange 128).all fun x =>
    x == p || match T.pktRoute[x] with
      | some y => y.first || y.targets.all fun m => !r.targets.contains m
      | none => true

/-- One packet word (R353, R354): it goes unchanged to the receivers; the word with `last` frees slave and arbiter. -/
def Tile.forward (T : Tile) (q : Config.Params) (p : SlaveId) (r : PktRoute) (w : StreamWord) : Tile :=
  { (T.popIn p).pushOut (T.receivers q r) w with
    pktRoute := T.pktRoute.set p (if w.last then none else some { r with first := false })
    arbOwner := T.arbOwner.set (arbIx r.arb) (if w.last then none else some p) }

/-- The forward step of slave `p` is enabled (R353, R356, R358): the slave's `PacketEnable` plays no part while a packet is
in flight. -/
def Tile.forwardReady (T : Tile) (q : Config.Params) (p : SlaveId) (r : PktRoute) : Bool :=
  decide (p.val < q.nSlaves T.ref.kind) && slaveEnable (T.layout q) T.scfg[p].val && T.arbFree r.arb p
    && T.mastersFree p r && T.spaceAll q.portDepth (T.receivers q r)

/-- The forward step of slave `p` (R353). -/
def packetForward (t : TileId) (p : SlaveId) (s : State) : State :=
  let T := s.tile t
  match T.inQ[p], T.pktRoute[p] with
  | w :: _, some r => if T.forwardReady s.params p r then s.modTile t fun T => T.forward s.params p r w else s
  | _, _ => s

/-- SW_PKT_FORWARD (R353, R354). -/
def execSwPktForward (t : TileId) (p : SlaveId) (s : State) : Result := .next (switchStep t s (packetForward t p))

/-! ### Environment -/

/-- The agent of an environment agent's accesses (R8, R83). -/
def envAgent (t : TileId) : EnvAgent → Agent
  | .core => .core t
  | .neighbour => .neighbour

/-- What an environment action does where the tile's environment agents have it (R314, R8; log 18). -/
def envAct (t : TileId) (s : State) : EnvAction → State
  | .push p w =>
    if hasSpace s.params.portDepth (s.tile t).inQ[p] then s.modTile t fun T => T.pushIn p w else s
  | .pop m =>
    match (s.tile t).outQ[m] with
    | [] => s
    | w :: _ => s.modTile t fun T => { T.popOut m with drained := T.drained ++ [(m, w)] }
  | .lock who l q =>
    (s.lockRequest (envAgent t who) t l q).modTile t fun T =>
      { T with envData := lockWord s.params T.ref.kind q (s.lockOk t l q) }
  | .read who wa =>
    (s.dmDrew (envAgent t who) t wa).modTile t fun T => { T with envData := s.dmValue (envAgent t who) t wa }
  | .write who wa v => s.dmWrite (envAgent t who) t wa v

/-- ENV_STEP (R314): an action no environment agent of the tile has is no step (log 9). -/
def execEnvStep (t : TileId) (act : EnvAction) (s : State) : Result :=
  .next (if act.wf s.params (s.kind t) then envAct t s act else s)

end Sys2Proof.Machine
end

