-- ==== Sys2Proof/Machine/Walker.lean ====
section
/-! DEFINITION. The descriptor-chain walker of a channel (R259 to R274).  A walker whose step is not enabled has no step:
its turn leaves the state as it is (R10 `hold`; log 9). -/

namespace Sys2Proof.Machine

/-- Walker `c` of tile `t`. -/
def State.walker (s : State) (t : TileId) (c : ChIx) : Walker := (s.tile t).walker[c]

/-- The control word of channel `c` of tile `t`. -/
def State.ctrl (s : State) (t : TileId) (c : ChIx) : Word := (s.tile t).ctrl[c].val

/-- The walker of a compute tile is in phase `p` and its channel is not held in reset (R259). -/
def State.walkIn (s : State) (t : TileId) (c : ChIx) (p : Phase) : Bool :=
  s.kind t == .ct && (s.walker t c).phase == p && !ctrlReset (s.layout t) (s.ctrl t c)

/-- Set walker `c` of tile `t`. -/
def State.setWalker (s : State) (t : TileId) (c : ChIx) (w : Walker) : State := s.modTile t fun T => T.setWalker c w

/-- A memory-to-stream channel (R250). -/
def isMm2s (c : ChIx) : Bool := decide (2 ≤ c.val)

/-- The phase after a granted acquire (R263). -/
def afterAcquire (c : ChIx) (b : HwBd) : Phase := if isMm2s c && b.fields.pktEn then .header else .transfer

/-- The acquire request of a slot (R263). -/
def SlotFields.acqKind (f : SlotFields) : LockKind := if f.acqValEn then .acqV f.acqVal else .acqNV

/-- The release request of a slot (R265). -/
def SlotFields.relKind (f : SlotFields) : LockKind := if f.relValEn then .relV f.relVal else .relNV

/-- The lock a slot names, of the DMA's own tile (R169). -/
def SlotFields.lock (f : SlotFields) : LockIx := Fin.ofNat 16 f.lockId.toNat

/-- The lowest word of a descriptor that the host has never written (R262). -/
def firstUnwritten (w : Vector RegCell 7) : Option BdWordIx := (List.finRange 7).find? fun k => !w[k].written

/-- The other address slot. -/
def otherSlot : Slot → Slot
  | .a => .b
  | .b => .a

/-- WALK_START (R260). -/
def execWalkStart (t : TileId) (c : ChIx) (s : State) : Result :=
  .next (if s.walkIn t c .idle && ctrlEnable (s.layout t) (s.ctrl t c) && (s.walker t c).startPending then
      s.setWalker t c
        { s.walker t c with
          cur := startBdField (s.layout t) (s.tile t).startBd[c].val, startPending := false, phase := .fetch }
    else s)

/-- WALK_ABANDON (R261). -/
def execWalkAbandon (t : TileId) (c : ChIx) (s : State) : Result :=
  .next (if s.kind t == .ct && (s.walker t c).phase != .idle && !ctrlEnable (s.layout t) (s.ctrl t c)
        && !ctrlReset (s.layout t) (s.ctrl t c) then
      s.setWalker t c { s.walker t c with phase := .idle, snap := none, done := 0 }
    else s)

/-- The words a descriptor holds. -/
def cellWords (w : Vector RegCell 7) : Vector Word 7 := Vector.ofFn fun k : BdWordIx => w[k].val

/-- What a fetch of descriptor `cur` does (R262): faults and refusals in the rule's order, else the snapshot. -/
def fetchBd (t : TileId) (c : ChIx) (s : State) : State :=
  let n := (s.walker t c).cur
  let w := (s.tile t).bdw[n]
  match firstUnwritten w with
  | some k => s.raise (.unwritten (bdOff (s.layout t) n k))
  | none =>
    let b := unpackBd (s.layout t).bd (cellWords w)
    if !b.valid then s.raise (.bdInvalid n)
    else if b.fields.intlvEn then s.refuse .interleave
    else if b.fields.fifoMode ≠ 0 then s.refuse .fifoMode
    else s.setWalker t c
      { s.walker t c with
        snap := some b, buf := if b.fields.abMode then (s.tile t).abCur[n] else .a, done := 0, phase := .acquire }

/-- WALK_FETCH (R262, R268). -/
def execWalkFetch (t : TileId) (c : ChIx) (s : State) : Result :=
  .next (if s.walkIn t c .fetch then fetchBd t c s else s)

/-- The acquire of a descriptor (R263): without `acqEn` none is made; otherwise it waits until it succeeds. -/
def acquireBd (t : TileId) (c : ChIx) (b : HwBd) (s : State) : State :=
  let w := s.walker t c
  let f := b.fields.slot w.buf
  if !f.acqEn then s.setWalker t c { w with phase := afterAcquire c b }
  else if s.lockOk t f.lock f.acqKind then
    (s.lockRequest (.walker t c) t f.lock f.acqKind).setWalker t c { w with phase := afterAcquire c b }
  else s

/-- WALK_ACQUIRE (R263). -/
def execWalkAcquire (t : TileId) (c : ChIx) (s : State) : Result :=
  .next (match s.walkIn t c .acquire, (s.walker t c).snap with
    | true, some b => acquireBd t c b s
    | _, _ => s)

/-- The header of a memory-to-stream descriptor (R264): it waits for space. -/
def sendHeader (t : TileId) (c : ChIx) (b : HwBd) (s : State) : State :=
  let sp := s.params.channelSlave c
  if isMm2s c && hasSpace s.params.portDepth (s.tile t).inQ[sp] then
    s.modTile t fun T =>
      (T.pushIn sp ⟨mkHeader s.params.header b.fields.pktType b.fields.pktId, false⟩).setWalker c
        { s.walker t c with phase := .transfer }
  else s

/-- WALK_HEADER (R264). -/
def execWalkHeader (t : TileId) (c : ChIx) (s : State) : Result :=
  .next (match s.walkIn t c .header, (s.walker t c).snap with
    | true, some b => sendHeader t c b s
    | _, _ => s)

/-- The number of words a descriptor moves (R270). -/
def HwBd.words (b : HwBd) : Nat := b.fields.length.toNat + 1

/-- The walker after one more word (R270). -/
def Walker.moved (w : Walker) (b : HwBd) : Walker :=
  { w with done := w.done + 1, phase := if w.done + 1 = b.words then .release else w.phase }

/-- The word address of the next word (R270). -/
def State.nextAddr (s : State) (t : TileId) (c : ChIx) (b : HwBd) : Nat :=
  addrGen2D s.params.addrGen (b.addr2D (s.walker t c).buf) (s.walker t c).done

/-- One word from data memory into the stream (R270, MM2S): it waits for space. -/
def sendWord (t : TileId) (c : ChIx) (b : HwBd) (s : State) : State :=
  let w := s.walker t c
  let wa := s.nextAddr t c b
  let sp := s.params.channelSlave c
  if hasSpace s.params.portDepth (s.tile t).inQ[sp] then
    if s.params.dmWords ≤ wa then s.raise (.dmaAddr wa)
    else (s.dmDrew (.walker t c) t wa).modTile t fun T =>
      (T.pushIn sp ⟨s.dmValue (.walker t c) t wa, decide (w.done + 1 = b.words)⟩).setWalker c (w.moved b)
  else s

/-- One word from the stream into data memory (R270, S2MM): it waits for a word, and ignores `last`. -/
def storeWord (t : TileId) (c : ChIx) (b : HwBd) (s : State) : State :=
  let w := s.walker t c
  let wa := s.nextAddr t c b
  let mp := s.params.channelMaster c
  match (s.tile t).outQ[mp] with
  | [] => s
  | x :: _ =>
    if s.params.dmWords ≤ wa then s.raise (.dmaAddr wa)
    else (s.dmWrite (.walker t c) t wa x.data).modTile t fun T => (T.popOut mp).setWalker c (w.moved b)

/-- WALK_TRANSFER (R270). -/
def execWalkTransfer (t : TileId) (c : ChIx) (s : State) : Result :=
  .next (match s.walkIn t c .transfer, (s.walker t c).snap with
    | true, some b => if isMm2s c then sendWord t c b s else storeWord t c b s
    | _, _ => s)

/-- The release of a descriptor (R265): without `relEn` none is made; otherwise it is retried until it succeeds. -/
def releaseBd (t : TileId) (c : ChIx) (b : HwBd) (s : State) : State :=
  let w := s.walker t c
  let f := b.fields.slot w.buf
  let r := s.lockRequest (.walker t c) t f.lock f.relKind
  if !f.relEn then s.setWalker t c { w with phase := .advance }
  else if s.lockOk t f.lock f.relKind then r.setWalker t c { w with phase := .advance }
  else r

/-- WALK_RELEASE (R265). -/
def execWalkRelease (t : TileId) (c : ChIx) (s : State) : Result :=
  .next (match s.walkIn t c .release, (s.walker t c).snap with
    | true, some b => releaseBd t c b s
    | _, _ => s)

/-- The walker after a descriptor (R266): Idle where the channel is disabled or the chain ends, else at the next BD. -/
def Walker.advanced (w : Walker) (enable : Bool) (b : HwBd) : Walker :=
  if enable && b.fields.nextEn then
    { w with cur := Fin.ofNat 16 b.nextBd.toNat, phase := .fetch, snap := none, done := 0 }
  else { w with phase := .idle, snap := none, done := 0 }

/-- WALK_ADVANCE (R266, R267). -/
def execWalkAdvance (t : TileId) (c : ChIx) (s : State) : Result :=
  .next (match s.walkIn t c .advance, (s.walker t c).snap with
    | true, some b =>
      s.modTile t fun T =>
        { T.setWalker c ((s.walker t c).advanced (ctrlEnable (s.layout t) (s.ctrl t c)) b) with
          abCur := if b.fields.abMode then T.abCur.set (s.walker t c).cur (otherSlot (s.walker t c).buf) else T.abCur }
    | _, _ => s)

end Sys2Proof.Machine
end

