-- ==== Sys2Proof/Machine/Dispatch.lean ====
section
/-! DEFINITION. One arm per instruction, each a direct call of its meaning. -/

namespace Sys2Proof.Machine

def exec (i : Instr) (s : State) : Host.Outcome State Fault Refusal :=
  match i with
  | .dmWr t wa v => Sys2Proof.Machine.execDmWr t wa v s
  | .dmRd t wa => Sys2Proof.Machine.execDmRd t wa s
  | .bdWr t n k v => Sys2Proof.Machine.execBdWr t n k v s
  | .bdRd t n k => Sys2Proof.Machine.execBdRd t n k s
  | .chCtrlWr t c v => Sys2Proof.Machine.execChCtrlWr t c v s
  | .chCtrlRd t c => Sys2Proof.Machine.execChCtrlRd t c s
  | .chStartBdWr t c v => Sys2Proof.Machine.execChStartBdWr t c v s
  | .chStartBdRd t c => Sys2Proof.Machine.execChStartBdRd t c s
  | .chStatusRd t ix => Sys2Proof.Machine.execChStatusRd t ix s
  | .chStatusWr t ix v => Sys2Proof.Machine.execChStatusWr t ix v s
  | .lockAcqNvRd t l => Sys2Proof.Machine.execLockAcqNvRd t l s
  | .lockAcqV0Rd t l => Sys2Proof.Machine.execLockAcqV0Rd t l s
  | .lockAcqV1Rd t l => Sys2Proof.Machine.execLockAcqV1Rd t l s
  | .lockRelNvRd t l => Sys2Proof.Machine.execLockRelNvRd t l s
  | .lockRelV0Rd t l => Sys2Proof.Machine.execLockRelV0Rd t l s
  | .lockRelV1Rd t l => Sys2Proof.Machine.execLockRelV1Rd t l s
  | .lockWr t l op v => Sys2Proof.Machine.execLockWr t l op v s
  | .lockAcqNvRdBt t l => Sys2Proof.Machine.execLockAcqNvRdBt t l s
  | .lockAcqV0RdBt t l => Sys2Proof.Machine.execLockAcqV0RdBt t l s
  | .lockAcqV1RdBt t l => Sys2Proof.Machine.execLockAcqV1RdBt t l s
  | .lockRelNvRdBt t l => Sys2Proof.Machine.execLockRelNvRdBt t l s
  | .lockRelV0RdBt t l => Sys2Proof.Machine.execLockRelV0RdBt t l s
  | .lockRelV1RdBt t l => Sys2Proof.Machine.execLockRelV1RdBt t l s
  | .lockWrBt t l op v => Sys2Proof.Machine.execLockWrBt t l op v s
  | .mcfgWr t m v => Sys2Proof.Machine.execMcfgWr t m v s
  | .mcfgRd t m => Sys2Proof.Machine.execMcfgRd t m s
  | .scfgWr t p v => Sys2Proof.Machine.execScfgWr t p v s
  | .scfgRd t p => Sys2Proof.Machine.execScfgRd t p s
  | .slotWr t p k v => Sys2Proof.Machine.execSlotWr t p k v s
  | .slotRd t p k => Sys2Proof.Machine.execSlotRd t p k s
  | .walkStart t c => Sys2Proof.Machine.execWalkStart t c s
  | .walkAbandon t c => Sys2Proof.Machine.execWalkAbandon t c s
  | .walkFetch t c => Sys2Proof.Machine.execWalkFetch t c s
  | .walkAcquire t c => Sys2Proof.Machine.execWalkAcquire t c s
  | .walkHeader t c => Sys2Proof.Machine.execWalkHeader t c s
  | .walkTransfer t c => Sys2Proof.Machine.execWalkTransfer t c s
  | .walkRelease t c => Sys2Proof.Machine.execWalkRelease t c s
  | .walkAdvance t c => Sys2Proof.Machine.execWalkAdvance t c s
  | .swCircuit t p => Sys2Proof.Machine.execSwCircuit t p s
  | .swPktStart t p => Sys2Proof.Machine.execSwPktStart t p s
  | .swPktForward t p => Sys2Proof.Machine.execSwPktForward t p s
  | .envStep t act => Sys2Proof.Machine.execEnvStep t act s
  | .poll t off mask expected timeout => Sys2Proof.Machine.execPoll t off mask expected timeout s
  | .lockAcquire t l v timeout => Sys2Proof.Machine.execLockAcquire t l v timeout s
  | .lockRelease t l v timeout => Sys2Proof.Machine.execLockRelease t l v timeout s
  | .bdSetLock e n x lockId relEn relVal acqEn acqVal => Sys2Proof.Machine.execBdSetLock e n x lockId relEn relVal acqEn acqVal s
  | .bdSet2D e n axis incr wrap offset => Sys2Proof.Machine.execBdSet2D e n axis incr wrap offset s
  | .bdSetInterleave e n en which count current => Sys2Proof.Machine.execBdSetInterleave e n en which count current s
  | .bdSetAddrLenMode e n baseA baseB lengthBytes dbEn fifoMode => Sys2Proof.Machine.execBdSetAddrLenMode e n baseA baseB lengthBytes dbEn fifoMode s
  | .bdSetNext e n next => Sys2Proof.Machine.execBdSetNext e n next s
  | .bdSetPacket e n en type id => Sys2Proof.Machine.execBdSetPacket e n en type id s
  | .bdClear e n => Sys2Proof.Machine.execBdClear e n s
  | .bdClearAll e => Sys2Proof.Machine.execBdClearAll e s
  | .bdCommit e n => Sys2Proof.Machine.execBdCommit e n s
  | .chControl e c reset enable => Sys2Proof.Machine.execChControl e c reset enable s
  | .chSetStartBd e c bd => Sys2Proof.Machine.execChSetStartBd e c bd s
  | .chReset e c => Sys2Proof.Machine.execChReset e c s
  | .chResetAll e => Sys2Proof.Machine.execChResetAll e s
  | .dmaInitialize e force => Sys2Proof.Machine.execDmaInitialize e force s
  | .ssPortId kind dir cls ix => Sys2Proof.Machine.execSsPortId kind dir cls ix s
  | .ssConfigureMaster t cls ix en pktEn cfg => Sys2Proof.Machine.execSsConfigureMaster t cls ix en pktEn cfg s
  | .ssConfigureSlave t cls ix en pktEn => Sys2Proof.Machine.execSsConfigureSlave t cls ix en pktEn s
  | .ssConnectCircuit t scls si mcls mi enSlave => Sys2Proof.Machine.execSsConnectCircuit t scls si mcls mi enSlave s
  | .ssConfigureSlot t cls ix k en id mask msel arb => Sys2Proof.Machine.execSsConfigureSlot t cls ix k en id mask msel arb s
  | .ssMstrPktConfig drop mask arb => Sys2Proof.Machine.execSsMstrPktConfig drop mask arb s

end Sys2Proof.Machine
end

