-- ==== Sys2Proof/Machine/Schedule.lean ====
section
/-! DEFINITION. What happens on a turn: the host performs its next operation (R81), an agent takes the step its turn
names (R8, R385).  The host's program and the turns are data of the state (log 2, 3). -/

namespace Sys2Proof.Machine

/-- The kinds of the fabric's tiles, which decoding reads (R101). -/
def State.kinds (s : State) : TileId → TileKind := fun t => s.kind t

/-- Perform a raw instruction: decode it and run its meaning; what is no instruction faults or is refused (R71, R79). -/
def runRaw (r : Raw) (s : State) : Result :=
  match decode s.params s.kinds r with
  | .ok i => exec i s
  | .error (.accessWidth o) => .next (s.raise (.accessWidth o))
  | .error (.unmapped o) => .next (s.raise (.unmapped o))
  | .error .badLine => .refused .badLine

/-- After one attempt of a poll (R163): it returns at the first success, and after the last attempt. -/
def afterTry (t : TileId) (off : Nat) (mask expected more : Nat) (s : State) : State :=
  if s.ended then s
  else if s.host.readData.toNat &&& mask = expected then s.ret (.bool true)
  else match more with
    | 0 => s.ret (.bool false)
    | n + 1 => s.setQueue (.pollTry t off mask expected n :: s.host.queue)

/-- A host operation, taken off the queue (R81): a transaction, a command, or the next part of a command. -/
def runOp (op : HostOp) (s : State) : Result :=
  match op with
  | .bus t width w off v => runRaw (.bus t width w off v) s
  | .mmio addr width w v =>
    match s.locate addr with
    | some (t, off) => runRaw (.bus t width w off v) s
    | none => .next (s.raise (.unmapped addr))
  | .line l => runRaw (.line l) s
  | .pollTry t off mask expected more =>
    match runRaw (.bus t 32 false off 0) s with
    | .next s1 => .next (afterTry t off mask expected more s1)
    | .fault f => .fault f
    | .refused r => .refused r
  | .noteStartBd e c bd => .next (s.setEngine e { s.engine e with startBd := (s.engine e).startBd.set c bd })
  | .noteReady e => .next (s.setEngine e { s.engine e with ready := true })
  | .ret r => .next (s.ret r)

/-- The host's turn: its next operation; a host that has finished has no step (R389; log 9). -/
def hostTurn (s : State) : Result :=
  match s.host.queue with
  | [] => .next s
  | op :: q => runOp op (s.setQueue q)

/-- Whose turn it is: the next directed turn, or, where none is directed, a free one (log 2). -/
def State.takeTurn (s : State) : Turn × State :=
  match s.turns with
  | u :: us => (u, { s with turns := us })
  | [] => (Config.freeTurn s.draws, s.drew 1)

/-- One turn. -/
def runTurn (u : Turn) (s : State) : Result :=
  match u with
  | .host => hostTurn s
  | .agent a => runRaw (.agent a) s

/-- One step: an execution that has ended takes no further step (R372, R373); a fault to be raised is raised, with no
other effect (R372; log 10); otherwise one agent takes its turn. -/
def oneStep (s : State) : Result :=
  match s.faults, s.refusal, s.pending with
  | f :: _, _, _ => .fault f
  | [], some r, _ => .refused r
  | [], none, some f => .next ({ s with pending := none }.raise f)
  | [], none, none => runTurn s.takeTurn.1 s.takeTurn.2

/-- The tile an opcode-table word is run on: tile 0 where it decodes there, else tile 1. -/
def fetchTile (s : State) (w : Nat) : TileId :=
  match decode s.params s.kinds (rawOfWord s.params.wOff 0 w 0) with
  | .ok _ => 0
  | .error _ => 1

/-- The host operation whose transaction word is `w`, with write data 0 (R101). -/
def fetchOp (s : State) (w : Nat) : HostOp :=
  .bus (fetchTile s w) 32 (decide (2 ^ s.params.wOff ≤ w)) (w % 2 ^ s.params.wOff) 0

/-- Put an operation first in the host's program and give the host the next turn. -/
def State.load (s : State) (op : HostOp) : State :=
  { s.setQueue (op :: s.host.queue) with turns := .host :: s.turns }

end Sys2Proof.Machine
end

