-- ==== Sys2Proof/Machine/Step.lean ====
section
/-! DEFINITION. The step function, and the placing of an instruction where the next step takes it. -/

namespace Sys2Proof.Machine

/-- One step of the machine (Machine/Schedule.lean `oneStep`). -/
def step (s : State) : Host.Outcome State Fault Refusal := oneStep s

/-- The state whose next step performs the transaction of the opcode-table word `w` (log 3). -/
def State.withFetchWord (s : State) (_nbits w : Nat) : State := s.load (fetchOp s w)

end Sys2Proof.Machine
end

