-- ==== Sys2Proof/Safety.lean ====
section
/-! DEFINITION. What a safe run is, what an instruction leaves alone, and the invariants of the machine: the terms that
statements are made in. -/

namespace Sys2Proof

/-- The tile an instruction can change: none for a command, whose transactions are steps of their own (R74). -/
def Instr.touches : Instr → Option TileId
  | .dmWr t _ _ | .dmRd t _ | .bdWr t _ _ _ | .bdRd t _ _ | .chCtrlWr t _ _ | .chCtrlRd t _ | .chStartBdWr t _ _
  | .chStartBdRd t _ | .chStatusRd t _ | .chStatusWr t _ _ | .lockAcqNvRd t _ | .lockAcqV0Rd t _ | .lockAcqV1Rd t _
  | .lockRelNvRd t _ | .lockRelV0Rd t _ | .lockRelV1Rd t _ | .lockWr t _ _ _ | .lockAcqNvRdBt t _ | .lockAcqV0RdBt t _
  | .lockAcqV1RdBt t _ | .lockRelNvRdBt t _ | .lockRelV0RdBt t _ | .lockRelV1RdBt t _ | .lockWrBt t _ _ _
  | .mcfgWr t _ _ | .mcfgRd t _ | .scfgWr t _ _ | .scfgRd t _ | .slotWr t _ _ _ | .slotRd t _ _
  | .walkStart t _ | .walkAbandon t _ | .walkFetch t _ | .walkAcquire t _ | .walkHeader t _ | .walkTransfer t _
  | .walkRelease t _ | .walkAdvance t _ | .swCircuit t _ | .swPktStart t _ | .swPktForward t _ | .envStep t _ => some t
  | .poll .. | .lockAcquire .. | .lockRelease .. | .bdSetLock .. | .bdSet2D .. | .bdSetInterleave ..
  | .bdSetAddrLenMode .. | .bdSetNext .. | .bdSetPacket .. | .bdClear .. | .bdClearAll .. | .bdCommit ..
  | .chControl .. | .chSetStartBd .. | .chReset .. | .chResetAll .. | .dmaInitialize .. | .ssPortId ..
  | .ssConfigureMaster .. | .ssConfigureSlave .. | .ssConnectCircuit .. | .ssConfigureSlot .. | .ssMstrPktConfig .. => none

/-- A layout that is an address map: inside the register space, word aligned, no two registers at one offset, six different
lock requests (R33, R71, R101). -/
structure Config.Params.IsMap (q : Config.Params) : Prop where
  inside : ∀ k r, Reg.mapped q k r = true → r.off (q.layout k) < 2 ^ q.wOff
  aligned : ∀ k r, Reg.mapped q k r = true → (∀ l op, r = .lock l op → op % 4 = 0) → r.off (q.layout k) % 4 = 0
  apart : ∀ k r r', Reg.mapped q k r = true → Reg.mapped q k r' = true → r.off (q.layout k) = r'.off (q.layout k) → r = r'
  lockOps : ∀ k a, lockOp (q.layout k) a < (q.layout k).lockStride ∧ lockOp (q.layout k) a % 4 = 0
  lockOpsApart : ∀ k a b, lockOp (q.layout k) a = lockOp (q.layout k) b → a = b

/-- The address map of `L_REF` with the reference port tables (R33, R103, R305). -/
def Config.Params.ReferenceMap (q : Config.Params) : Prop :=
  q.layoutCt = .reference .ct ∧ q.layoutBt = .reference .bt ∧ q.wOff = 18 ∧ q.dmWords = 8192
    ∧ q.mastersCt = .reference .ct .master ∧ q.slavesCt = .reference .ct .slave
    ∧ q.mastersBt = .reference .bt .master ∧ q.slavesBt = .reference .bt .slave

/-- Fields of one register, each as its lowest bit and its width, lie inside the word and apart (R110). -/
def FieldsFit (fs : List (Nat × Nat)) : Prop :=
  (∀ f ∈ fs, f.1 + f.2 ≤ 32) ∧ fs.Pairwise fun f g => f.1 + f.2 ≤ g.1 ∨ g.1 + g.2 ≤ f.1

/-- The fields of a descriptor's words lie inside their words and apart (R110, R120 to R126). -/
def Config.BdLayout.Fits (L : Config.BdLayout) : Prop :=
  ∀ k : BdWordIx, FieldsFit
    (((Machine.bdFieldsOf L .cleared).filter fun f => decide (f.place.word = k)).map fun f => (f.place.lsb, f.width))

/-- The fields of the channel registers lie inside the word and apart (R127, R128). -/
def Config.Layout.ChannelFits (L : Config.Layout) : Prop :=
  FieldsFit [(L.ctrlReset, 1), (L.ctrlEnable, 1)] ∧ FieldsFit [(L.startBd, 4)]

end Sys2Proof

namespace Sys2Proof.Machine

/-! ### Safe runs -/

/-- No fault and no refusal is recorded, and none is to be (R389: part of what a program's final state is). -/
def State.Clean (s : State) : Prop := s.faults = [] ∧ s.refusal = none ∧ s.pending = none

/-! ### What is left alone -/

/-- Every byte of every data memory reads as before. -/
def SameMemory (s s' : State) : Prop := ∀ u a, readByte (s'.tile u).dm a = readByte (s.tile u).dm a

/-- Every byte of every data memory but the four of word `wa` of tile `t` reads as before. -/
def SameMemoryBut (t : TileId) (wa : Nat) (s s' : State) : Prop :=
  ∀ u a, (u = t → a < byteAddr wa 0 ∨ byteAddr wa 3 < a) → readByte (s'.tile u).dm a = readByte (s.tile u).dm a

/-- The agent whose lock requests and data-memory accesses an instruction makes (R8, R83). -/
def requester : Instr → Agent
  | .walkAcquire t c => .walker t c
  | .walkRelease t c => .walker t c
  | .walkTransfer t c => .walker t c
  | .envStep t (.lock who _ _) => envAgent t who
  | .envStep t (.read who _) => envAgent t who
  | .envStep t (.write who _ _) => envAgent t who
  | _ => .host

/-- The lock request a host read of a row of kind `k` makes: none on a tile of the other kind (R79, R152). -/
def hostRequest (s : State) (k : TileKind) (t : TileId) (l : LockIx) (q : LockKind) : Option (TileId × LockIx × LockKind) :=
  if s.kind t = k then some (t, l, q) else none

/-- The lock request a walker in phase `p` makes for the address slot of its snapshot: none where the slot asks for none
(R263, R265). -/
def walkRequest (s : State) (t : TileId) (c : ChIx) (p : Phase) (asks : SlotFields → Bool) (q : SlotFields → LockKind) :
    Option (TileId × LockIx × LockKind) :=
  match (s.walker t c).snap with
  | some b =>
    let f := b.fields.slot (s.walker t c).buf
    if s.walkIn t c p && asks f then some (t, f.lock, q f) else none
  | none => none

/-- The lock request an instruction makes in a state (R153 to R159, R263, R265, R314). -/
def lockRequestOf (s : State) : Instr → Option (TileId × LockIx × LockKind)
  | .lockAcqNvRd t l => hostRequest s .ct t l .acqNV
  | .lockAcqV0Rd t l => hostRequest s .ct t l (.acqV false)
  | .lockAcqV1Rd t l => hostRequest s .ct t l (.acqV true)
  | .lockRelNvRd t l => hostRequest s .ct t l .relNV
  | .lockRelV0Rd t l => hostRequest s .ct t l (.relV false)
  | .lockRelV1Rd t l => hostRequest s .ct t l (.relV true)
  | .lockAcqNvRdBt t l => hostRequest s .bt t l .acqNV
  | .lockAcqV0RdBt t l => hostRequest s .bt t l (.acqV false)
  | .lockAcqV1RdBt t l => hostRequest s .bt t l (.acqV true)
  | .lockRelNvRdBt t l => hostRequest s .bt t l .relNV
  | .lockRelV0RdBt t l => hostRequest s .bt t l (.relV false)
  | .lockRelV1RdBt t l => hostRequest s .bt t l (.relV true)
  | .walkAcquire t c => walkRequest s t c .acquire SlotFields.acqEn SlotFields.acqKind
  | .walkRelease t c => walkRequest s t c .release SlotFields.relEn SlotFields.relKind
  | .envStep t (.lock _ l q) => some (t, l, q)
  | _ => none

/-- Nothing but the host's side and the number of free values drawn changes. -/
def OnlyHost (s s' : State) : Prop := s' = { s with host := s'.host, draws := s'.draws } ∧ SameMemory s s'

/-- Nothing but the word a host read returns, and the number of free values drawn, changes. -/
def OnlyReadData (s s' : State) : Prop :=
  s' = { s with host := { s.host with readData := s'.host.readData }, draws := s'.draws } ∧ SameMemory s s'

/-- Nothing but tile `t` and the number of free values drawn changes. -/
def OnlyTile (t : TileId) (s s' : State) : Prop :=
  s' = { s with tiles := s'.tiles, draws := s'.draws } ∧ ∀ u, u ≠ t → s'.tile u = s.tile u

/-- Nothing but tile `t`, the number of free values drawn and the order of data-memory accesses (R83) changes. -/
def OnlyTileOrder (t : TileId) (s s' : State) : Prop :=
  s' = { s with tiles := s'.tiles, draws := s'.draws, writes := s'.writes } ∧ ∀ u, u ≠ t → s'.tile u = s.tile u

/-- Nothing but tile `t`, the order of data-memory accesses, the word a host read returns and the number of free values drawn changes. -/
def OnlyTileRead (t : TileId) (s s' : State) : Prop :=
  s' = { s with
      tiles := s'.tiles, host := { s.host with readData := s'.host.readData }, draws := s'.draws, writes := s'.writes }
    ∧ ∀ u, u ≠ t → s'.tile u = s.tile u

/-- `r` is what a read of a register holding `w` may return (R140): every field bit as stored, and 0 in every reserved bit
that was last written 0. -/
def ReadsBack (mask w r : Word) : Prop := r &&& mask = w &&& mask ∧ r &&& ~~~mask &&& ~~~w = 0

/-! ### Invariants -/

/-- Data memory is in canonical form on every tile. -/
def State.MemoryInv (s : State) : Prop := ∀ t, Memory.wf s.params.dmWords (s.tile t).dm

/-- Every stream queue holds at most `P_PORT_DEPTH` words (R47). -/
def State.QueueInv (s : State) : Prop :=
  ∀ t, (∀ p : SlaveId, ((s.tile t).inQ[p]).length ≤ s.params.portDepth)
    ∧ ∀ m : MasterId, ((s.tile t).outQ[m]).length ≤ s.params.portDepth

/-- A snapshot a walker may hold: valid, in no refused mode (R262, R268), with slot A outside double-buffer mode (R267). -/
def HwBd.Runnable (b : HwBd) (buf : Slot) : Prop :=
  b.valid = true ∧ b.fields.intlvEn = false ∧ b.fields.fifoMode = 0 ∧ (b.fields.abMode = false → buf = .a)

/-- A walker of channel `c` whose control word is `ctrl`, in a layout: held Idle by `Reset` (R251, R259), a snapshot exactly in the phases
from Acquire to Advance, and a word count that fits its phase (R260 to R266, R270). -/
def Walker.Inv (L : Config.Layout) (c : ChIx) (ctrl : Word) (w : Walker) : Prop :=
  (ctrlReset L ctrl = true → w.phase = .idle) ∧
  match w.phase, w.snap with
  | .idle, none => w.done = 0
  | .fetch, none => w.done = 0
  | .acquire, some b => b.Runnable w.buf ∧ w.done = 0
  | .header, some b => b.Runnable w.buf ∧ w.done = 0 ∧ isMm2s c = true ∧ b.fields.pktEn = true
  | .transfer, some b => b.Runnable w.buf ∧ w.done < b.words
  | .release, some b => b.Runnable w.buf ∧ w.done = b.words
  | .advance, some b => b.Runnable w.buf ∧ w.done = b.words
  | _, _ => False

/-- Every walker is in one of its legal conditions. -/
def State.WalkerInv (s : State) : Prop :=
  ∀ t (c : ChIx), ((s.tile t).walker[c]).Inv (s.layout t) c (s.tile t).ctrl[c].val

/-- An arbiter is held exactly by the slave port whose packet has begun to pass through it (R48, R353, R354); a packet's
targets are masters of the tile, at least one (R355); no master is in the midst of two packets (R356). -/
def Tile.ArbiterInv (q : Config.Params) (T : Tile) : Prop :=
  (∀ (a : Fin 8) (p : SlaveId), T.arbOwner[a] = some p ↔
    ∃ r, T.pktRoute[p] = some r ∧ arbIx r.arb = a ∧ r.first = false)
  ∧ (∀ (p : SlaveId) r, T.pktRoute[p] = some r → r.targets ≠ [] ∧ ∀ m ∈ r.targets, m.val < q.nMasters T.ref.kind)
  ∧ ∀ (p p' : SlaveId) r r', T.pktRoute[p] = some r → T.pktRoute[p'] = some r' → r.first = false → r'.first = false →
      ∀ m, m ∈ r.targets → m ∈ r'.targets → p = p'

/-- The arbiters of every tile. -/
def State.ArbiterInv (s : State) : Prop := ∀ t, (s.tile t).ArbiterInv s.params

/-- Master `m` is configured so that the switch may raise a fault at any step: a circuit master whose `Config` names no
slave (R310), or an enabled packet master whose arbiter index is out of range (R355). -/
def Tile.BadMaster (q : Config.Params) (T : Tile) (m : MasterId) : Prop :=
  let L := T.layout q
  let v := (T.mcfg[m]).val
  m.val < q.nMasters T.ref.kind ∧ v.getLsbD L.mcfgEnable = true
    ∧ if v.getLsbD L.mcfgPacket then q.nArb ≤ v.toNat / 2 ^ L.mcfgConfig % 8
      else q.nSlaves T.ref.kind ≤ v.toNat / 2 ^ L.mcfgConfig % 128

/-- A start-BD bookkeeping value is an index or the sentinel (R50, R281). -/
def IsBdMark (x : BitVec 8) : Prop := x.toNat < 16 ∨ x = 0xFF

/-- A mirror BD the setters can produce (R51, R194 to R201): the chain bit is derived from the sentinel, the FIFO mode is not
the reserved one and keeps the length a multiple of 4 words, the interleave count is a multiple of 4. -/
def MirrorBd.Inv (b : MirrorBd) : Prop :=
  (b.fields.nextEn = true → b.nextBd.toNat < 16) ∧ (b.fields.nextEn = false → b.nextBd = 0 ∨ b.nextBd = 0xFF)
    ∧ b.fields.fifoMode ≠ 3 ∧ (b.fields.fifoMode ≠ 0 → (b.fields.length.toNat + 1) % 4 = 0)
    ∧ b.fields.intlvCnt.toNat % 4 = 0

/-- The engines hold what commands can store, and so does the bookkeeping still queued. -/
def State.MirrorInv (s : State) : Prop :=
  (∀ e : TileId, (∀ c : ChIx, IsBdMark (s.engine e).startBd[c]) ∧ ∀ n : BdIx, ((s.engine e).bd[n]).Inv)
  ∧ ∀ e c x, HostOp.noteStartBd e c x ∈ s.host.queue → IsBdMark x

/-! ### Runs -/

/-- `n` steps of the machine, one after another, stopping where a step stops. -/
def stepRun : Nat → State → Result
  | 0, s => .next s
  | n + 1, s =>
    match step s with
    | .next s' => stepRun n s'
    | .fault f => .fault f
    | .refused r => .refused r

/-- `n` turns of the host, one after another (R81), stopping where a turn stops or the execution has ended. -/
def hostRun : Nat → State → Result
  | 0, s => .next s
  | n + 1, s =>
    if s.ended then .next s
    else match hostTurn s with
      | .next s' => hostRun n s'
      | .fault f => .fault f
      | .refused r => .refused r

end Sys2Proof.Machine
end

