-- ==== Sys2Proof/Certificates/Slice0/Obligations.lean ====
section
/-! DEFINITION. The statements for the provers.  Each says in its docstring which rules of spec/ it states. -/

open Sys2Proof Sys2Proof.Machine

/-- O1. Decode and encode agree on every instruction (R101, R103, R146), in every layout that is an address map (log 6). -/
def Obligations.DecodeEncode : Prop :=
  ∀ (q : Config.Params) (kind : TileId → TileKind) (i : Instr), q.IsMap → i.wf q kind = true →
    decode q kind (encode q kind i) = .ok i

/-- O2. The other direction of the round trip, for transactions (R101, R102). -/
def Obligations.EncodeDecode : Prop :=
  ∀ (q : Config.Params) (kind : TileId → TileKind) (t : TileId) (width : Nat) (w : Bool) (off : Nat) (v : Word) (i : Instr),
    q.IsMap → decode q kind (.bus t width w off v) = .ok i →
      i.wf q kind = true ∧ width = 32 ∧ encode q kind i = .bus t 32 w off (if w then v else 0)

/-- O3. The decoder against the mask and match table of spec/opcode_table.json (R101). -/
def Obligations.DecoderSelectsRows : Prop :=
  ∀ (q : Config.Params) (kind : TileId → TileKind) (t : TileId) (T : BitVec 19) (v : Word), q.ReferenceMap →
    let raw := rawOfWord q.wOff t T.toNat v
    (T.toNat % 4 = 0 →
      (∀ i, decode q kind raw = .ok i → ∃ r ∈ tableRows, r.selects (kind t) T = true ∧ r.mnemonic = i.mnemonic)
      ∧ (∀ r ∈ tableRows, r.selects (kind t) T = true → ∃ i, decode q kind raw = .ok i ∧ i.mnemonic = r.mnemonic)
      ∧ (∀ r ∈ tableRows, ∀ r' ∈ tableRows, r.selects (kind t) T = true → r'.selects (kind t) T = true →
          r.mnemonic = r'.mnemonic)
      ∧ ((∀ r ∈ tableRows, r.selects (kind t) T = false) → decode q kind raw = .error (.unmapped (T.toNat % 2 ^ 18))))
    ∧ (T.toNat % 4 ≠ 0 → decode q kind raw = .error (.accessWidth (T.toNat % 2 ^ 18)))
    ∧ ∀ (width : Nat) (w : Bool) (off : Nat), width ≠ 32 →
        decode q kind (.bus t width w off v) = .error (.accessWidth off)

/-- O4. A sanity check on words of the examples of R89, R153, R155, R159, R191, R251, R253, R301, R341. -/
def Obligations.SampleWords : Prop :=
  decodeTableWord 24 0x5D018 = some (.bdWr 0 0 6 0)
  ∧ decodeTableWord 24 0x45000 = some (.dmWr 0 0x1400 0)
  ∧ decodeTableWord 24 0x5DE00 = some (.chCtrlWr 0 0 0)
  ∧ decodeTableWord 24 0x5DE14 = some (.chStartBdWr 0 2 0)
  ∧ decodeTableWord 24 0x1DF10 = some (.chStatusRd 0 1)
  ∧ decodeTableWord 24 0x1E1C0 = some (.lockAcqNvRd 0 3)
  ∧ decodeTableWord 24 0x1E2F0 = some (.lockAcqV1Rd 0 5)
  ∧ decodeTableWord 24 0x141B0 = some (.lockRelV1RdBt 1 3)
  ∧ decodeTableWord 24 0x7F050 = some (.mcfgWr 0 20 0)
  ∧ decodeTableWord 24 0x7F274 = some (.slotWr 0 7 1 0)

/-- O5. Which instruction a step runs (R8, R81, R385; the schedule is the model's, log 2, 3). -/
def Obligations.StepRunsDecoded : Prop :=
  ∀ s : State, s.Clean →
    (∀ us q t width w off v i, s.turns = .host :: us → s.host.queue = .bus t width w off v :: q →
      decode s.params s.kinds (.bus t width w off v) = .ok i →
        step s = exec i { s with turns := us, host := { s.host with queue := q } })
    ∧ (∀ us q t width w v i (off : Nat), s.turns = .host :: us →
      ((s.tile 0).ref.base + 2 ^ s.params.wOff ≤ (s.tile 1).ref.base
        ∨ (s.tile 1).ref.base + 2 ^ s.params.wOff ≤ (s.tile 0).ref.base) →
      s.host.queue = .mmio ((s.tile t).ref.base + off) width w v :: q →
      decode s.params s.kinds (.bus t width w off v) = .ok i →
        step s = exec i { s with turns := us, host := { s.host with queue := q } })
    ∧ (∀ us q l i, s.turns = .host :: us → s.host.queue = .line l :: q → decode s.params s.kinds (.line l) = .ok i →
        step s = exec i { s with turns := us, host := { s.host with queue := q } })
    ∧ (∀ us a, s.turns = .agent a :: us → step s = exec (decodeAgent a) { s with turns := us })
    ∧ (s.turns = [] → step s = runTurn (Config.freeTurn s.draws) { s with draws := s.draws + 1 })
    ∧ ∀ nbits w i, s.params.ReferenceMap → (∀ u, s.kind u = .ct ↔ u = 0) → decodeTableWord nbits w = some i →
        step (s.withFetchWord nbits w) = exec i s

/-- O6. R71 and R79: the faults a transaction can raise before it is performed.  These rules speak of tile-local offsets; what a system address that no tile holds does is the reading of the model, log 24 (DEDUCED). -/
def Obligations.HostAccessFaults : Prop :=
  ∀ (s : State) (us : List Turn) (q : List HostOp) (t : TileId) (width : Nat) (w : Bool) (off : Nat) (v : Word),
    s.Clean → s.turns = .host :: us →
      (s.host.queue = .bus t width w off v :: q →
        ((width ≠ 32 ∨ off % 4 ≠ 0) →
          step s = .next { s with turns := us, host := { s.host with queue := q }, faults := [.accessWidth off] })
        ∧ (width = 32 → off % 4 = 0 → s.params.IsMap →
          (∀ i, i.wf s.params s.kinds = true → encode s.params s.kinds i ≠ .bus t 32 w off (if w then v else 0)) →
          step s = .next { s with turns := us, host := { s.host with queue := q }, faults := [.unmapped off] })
        ∧ (∀ i, decode s.params s.kinds (.bus t width w off v) = .ok i → width = 32 ∧ off % 4 = 0))
      ∧ (s.host.queue = .mmio off width w v :: q →
        (∀ u, ¬ ((s.tile u).ref.base ≤ off ∧ off < (s.tile u).ref.base + 2 ^ s.params.wOff)) →
        step s = .next { s with turns := us, host := { s.host with queue := q }, faults := [.unmapped off] })

/-- O7. R55, with the end of the execution of R372 and R373. -/
def Obligations.FaultsNeverCleared : Prop :=
  (∀ q p refs, (State.powerOn q p refs).faults = [] ∧ (State.powerOn q p refs).refusal = none
      ∧ (State.powerOn q p refs).pending = none)
  ∧ (∀ i s s', exec i s = .next s' →
      (∃ l, s'.faults = s.faults ++ l) ∧ (s.refusal.isSome = true → s'.refusal.isSome = true))
  ∧ (∀ s s', step s = .next s' →
      (∃ l, s'.faults = s.faults ++ l) ∧ (s.refusal.isSome = true → s'.refusal.isSome = true))
  ∧ (∀ s f fs, s.faults = f :: fs → step s = .fault f)
  ∧ ∀ s r, s.faults = [] → s.refusal = some r → step s = .refused r

/-- O8. R372 and R373 over all instructions; the in-use write of R269 is log 10 (DEDUCED). -/
def Obligations.FaultStepsDoNothingElse : Prop :=
  (∀ i s s', exec i s = .next s' →
    (s'.faults ≠ s.faults → ∃ f n, n ≤ 1 ∧ s' = { s with faults := s.faults ++ [f], draws := s.draws + n })
    ∧ (s'.refusal ≠ s.refusal → ∃ r, s' = { s with refusal := some r })
    ∧ (s'.pending ≠ s.pending → ∃ t n k v, i = .bdWr t n k v ∧ (s.tile t).bdInUse n = true ∧ s.params.bdInUse = .fault
        ∧ s'.pending = some (.bdInUseWrite n)))
  ∧ ∀ s f, s.faults = [] → s.refusal = none → s.pending = some f →
      step s = .next { s with pending := none, faults := [f] }

/-- O9. The canonical form of data memory is kept by every step, from every state. -/
def Obligations.MemoryCanonicalKept : Prop := ∀ s s', s.MemoryInv → step s = .next s' → s'.MemoryInv

/-- O10. The capacity of R47 is respected by every agent that appends to a queue. -/
def Obligations.QueueBoundKept : Prop := ∀ s s', s.QueueInv → step s = .next s' → s'.QueueInv

/-- O11. The walker invariant: phases, snapshot and count fit together (R41, R42, R259 to R270). -/
def Obligations.WalkerInvKept : Prop := ∀ s s', s.WalkerInv → step s = .next s' → s'.WalkerInv

/-- O12. The arbiter invariant behind R356 and R84; what a forward step waits for after a master is rewritten in mid-packet is log 17 (DEDUCED). -/
def Obligations.ArbiterInvKept : Prop := ∀ s s', s.ArbiterInv → step s = .next s' → s'.ArbiterInv

/-- O13. The mirror invariant: what R204 calls the mirror BDs the setters can produce. -/
def Obligations.MirrorInvKept : Prop := ∀ s s', s.MirrorInv → step s = .next s' → s'.MirrorInv

/-- O14. The invariants hold at reset. -/
def Obligations.InvariantsAtReset : Prop :=
  State.reset.MemoryInv ∧ State.reset.QueueInv ∧ State.reset.WalkerInv ∧ State.reset.ArbiterInv ∧ State.reset.MirrorInv
    ∧ State.reset.Clean

/-- O15. Isolation of tiles (R385) and the immutable tile reference (R20). -/
def Obligations.TilesAreIndependent : Prop :=
  (∀ i s s', exec i s = .next s' →
    s'.params = s.params ∧ ∀ u, (s'.tile u).ref = (s.tile u).ref ∧ (i.touches ≠ some u → s'.tile u = s.tile u))
  ∧ ∀ s s', step s = .next s' → s'.params = s.params ∧ ∀ u, (s'.tile u).ref = (s.tile u).ref

/-- O16. R30: a lock changes only by the lock requests. -/
def Obligations.OnlyRequestsChangeLocks : Prop :=
  ∀ i s s' t (l : LockIx), exec i s = .next s' → (s'.tile t).lock[l] ≠ (s.tile t).lock[l] →
    i ∈ [.lockAcqNvRd t l, .lockAcqV0Rd t l, .lockAcqV1Rd t l, .lockRelNvRd t l, .lockRelV0Rd t l, .lockRelV1Rd t l,
         .lockAcqNvRdBt t l, .lockAcqV0RdBt t l, .lockAcqV1RdBt t l, .lockRelNvRdBt t l, .lockRelV0RdBt t l,
         .lockRelV1RdBt t l]
    ∨ (∃ (c : ChIx) (b : HwBd), (i = .walkAcquire t c ∨ i = .walkRelease t c) ∧ ((s.tile t).walker[c]).snap = some b
        ∧ (b.fields.slot ((s.tile t).walker[c]).buf).lockId.toNat = l.val)
    ∨ ∃ who q, i = .envStep t (.lock who l q)

/-- O17. R24: the BD file is changed by host writes only, and R46 for `abCur`. -/
def Obligations.OnlyHostChangesDescriptors : Prop :=
  ∀ i s s' t (n : BdIx), exec i s = .next s' →
    (∀ k : BdWordIx, (s'.tile t).bdw[n][k] ≠ (s.tile t).bdw[n][k] → ∃ v, i = .bdWr t n k v)
    ∧ ((s'.tile t).abCur[n] ≠ (s.tile t).abCur[n] →
        (∃ v, i = .bdWr t n 6 v) ∨ ∃ c : ChIx, i = .walkAdvance t c ∧ ((s.tile t).walker[c]).cur = n)

/-- O18. What can store to data memory, over all instructions (R34, R270). -/
def Obligations.OnlyStoresChangeMemory : Prop :=
  ∀ i s s' t a, exec i s = .next s' → readByte (s'.tile t).dm a ≠ readByte (s.tile t).dm a →
    ∃ wa : Nat, (byteAddr wa 0 ≤ a ∧ a ≤ byteAddr wa 3) ∧
      ((∃ v, i = .dmWr t wa v) ∨ (∃ who v, i = .envStep t (.write who wa v))
        ∨ ∃ (c : ChIx) (b : HwBd), i = .walkTransfer t c ∧ c.val < 2 ∧ ((s.tile t).walker[c]).snap = some b
            ∧ wa = addrGen2D s.params.addrGen (b.addr2D ((s.tile t).walker[c]).buf) ((s.tile t).walker[c]).done)

/-- O19. R401, element by element. -/
def Obligations.PowerOnState : Prop :=
  (∀ (q : Config.Params) (p : Config.PowerOn) (refs : Vector TileRef 2) (t : TileId),
    let s := State.powerOn q p refs
    let T := s.tile t
    T.ref = refs[t]
    ∧ (∀ (n : BdIx) (k : BdWordIx), (T.bdw[n][k]).written = false) ∧ (∀ n : BdIx, T.abCur[n] = .a)
    ∧ (∀ c : ChIx, (T.ctrl[c]).val = p.ctrl ∧ (T.startBd[c]).val = p.startBd ∧ T.walker[c] = ⟨.idle, 0, none, .a, 0, false⟩)
    ∧ (∀ l : LockIx, T.lock[l] = ⟨p.lockHeld, p.lockValue⟩)
    ∧ (∀ m : MasterId, (T.mcfg[m]).val = p.mcfg ∧ T.outQ[m] = [])
    ∧ (∀ x : SlaveId, (T.scfg[x]).val = p.scfg ∧ (∀ k : SlotIx, (T.slot[x][k]).val = p.slot) ∧ T.inQ[x] = []
        ∧ T.pktRoute[x] = none)
    ∧ (∀ a : Fin 8, T.arbOwner[a] = none) ∧ (∀ a, readByte T.dm a = none)
    ∧ (∀ i, s.kind t = .ct → ∃ s', exec (.chStatusRd t i) s = .next s' ∧ s'.host.readData = Config.freeWord s.draws)
    ∧ s.faults = [] ∧ s.refusal = none ∧ s.pending = none ∧ s.writes = [] ∧ s.host.eng[t] = none)
  ∧ ∀ t c w, exec (decodeAgent (.walk t c w)) State.reset = .next State.reset

/-- O20. DM_WR (R89, R73, R70).  That a read by any other agent then races with the write is the reading of R83 that the model makes, log 12 (DEDUCED). -/
def Obligations.DataMemoryWrite : Prop :=
  ∀ (s : State) (t : TileId) (wa : Nat) (v : Word), s.kind t = .ct → wa < s.params.dmWords →
    let L := s.layout t
    encode s.params s.kinds (.dmWr t wa v) = .bus t 32 true (L.dmBase + 4 * wa) v
    ∧ (L = .reference .ct → L.dmBase = 0x00000)
    ∧ ∃ s', exec (.dmWr t wa v) s = .next s'
      ∧ readWord (s'.tile t).dm wa = some v
      ∧ (∀ b, b < 4 → readByte (s'.tile t).dm (4 * wa + b) = some (v.extractLsb' (8 * b) 8))
      ∧ SameMemoryBut t wa s s'
      ∧ OnlyTileOrder t s s'
      ∧ s'.tile t = { s.tile t with dm := (s'.tile t).dm }
      ∧ ∀ a, a ≠ .host → some v ∈ s'.racing a t wa

/-- O21. DM_RD (R90, R73).  What counts as a race and which words a racing read may return is the reading of R83 that the model makes, log 12 (DEDUCED). -/
def Obligations.DataMemoryRead : Prop :=
  ∀ (s : State) (t : TileId) (wa : Nat), s.kind t = .ct → wa < s.params.dmWords →
    let L := s.layout t
    encode s.params s.kinds (.dmRd t wa) = .bus t 32 false (L.dmBase + 4 * wa) 0
    ∧ (L = .reference .ct → L.dmBase = 0x00000)
    ∧ (∃ s', exec (.dmRd t wa) s = .next s' ∧ OnlyReadData s s'
      ∧ (s.racing .host t wa = [] →
          (∀ v, readWord (s.tile t).dm wa = some v → s'.host.readData = v)
          ∧ (readWord (s.tile t).dm wa = none → s'.host.readData = Config.freeWord (s.draws + 1)))
      ∧ ∃ o ∈ readWord (s.tile t).dm wa :: s.racing .host t wa,
          s'.host.readData = o.getD (Config.freeWord (s.draws + 1)))
    ∧ ∀ v, ∃ s1 s2, exec (.dmWr t wa v) s = .next s1 ∧ exec (.dmRd t wa) s1 = .next s2 ∧ s2.host.readData = v

/-- O22. Order by lock hand-off (R83) in the records of writes of the model: log 12 (DEDUCED). -/
def Obligations.LocksOrderData : Prop :=
  (∀ (who : Agent) (l : TileId × LockIx) (ws : List WriteRec), ∀ r ∈ noteLock who l ws, who ∈ r.known ↔ l ∈ r.locks)
  ∧ (∀ i s s' t (l : LockIx), exec i s = .next s' → (s'.tile t).lock[l] ≠ (s.tile t).lock[l] →
      s'.writes = noteLock (requester i) (t, l) s.writes)
  ∧ (∀ i s s', exec i s = .next s' →
      match lockRequestOf s i with
      | some (t, l, q) => s'.writes = if s.lockOk t l q then noteLock (requester i) (t, l) s.writes else s.writes
      | none => ∀ (k : Nat) (r : WriteRec), s.writes[k]? = some r →
          ∃ r', s'.writes[k]? = some r' ∧ r'.known = r.known ∧ r'.locks = r.locks)
  ∧ (∀ (s s1 s2 s3 : State) (n : Nat) (a b : Agent) (t : TileId) (l : LockIx) (q q' : LockKind),
      s.lockOk t l q = true → s.lockRequest a t l q = s1 → stepRun n s1 = .next s2 →
      s2.lockOk t l q' = true → s2.lockRequest b t l q' = s3 →
      ∀ (k : Nat) (r : WriteRec), s1.writes[k]? = some r → a ∈ r.known →
        ∃ r', s3.writes[k]? = some r' ∧ r'.t = r.t ∧ r'.wa = r.wa ∧ r'.old = r.old ∧ r'.new = r.new ∧ b ∈ r'.known)
  ∧ (∀ s s', step s = .next s' →
      s.writes.length ≤ s'.writes.length ∧ s'.writes.length ≤ s.writes.length + 1
      ∧ ∀ (k : Nat) (r : WriteRec), s.writes[k]? = some r →
        ∃ r', s'.writes[k]? = some r' ∧ r'.t = r.t ∧ r'.wa = r.wa ∧ r'.old = r.old ∧ r'.new = r.new
          ∧ r.known ⊆ r'.known ∧ r.locks ⊆ r'.locks ∧ r.overBy ⊆ r'.overBy)
  ∧ (∀ (s : State) (who : Agent) (t : TileId) (wa : Nat),
      s.racing who t wa = [] ↔ ∀ r ∈ s.writes, r.t = t → r.wa = wa → who ∈ r.known ∨ who ∈ r.overBy)
  ∧ ∀ (s : State) (who a : Agent) (t : TileId) (wa : Nat) (v : Word), a ≠ who →
      (s.dmWrite who t wa v).racing who t wa = []
      ∧ (s.dmWrite who t wa v).racing a t wa = s.racing a t wa ++ [readWord (s.tile t).dm wa, some v]

/-- O23. BD_WR (R191) and the in-use write (R269); that the fault is raised by the next step, so that R269 and R372 both hold, is the reading of the model, log 10 (DEDUCED). -/
def Obligations.DescriptorWrite : Prop :=
  ∀ (s : State) (t : TileId) (n : BdIx) (k : BdWordIx) (v : Word), s.kind t = .ct →
    let L := s.layout t
    let inUse := s.params.bdInUse = .fault ∧ ∃ c : ChIx, ((s.tile t).walker[c]).phase ≠ .idle
      ∧ ((s.tile t).walker[c]).phase ≠ .fetch ∧ ((s.tile t).walker[c]).cur = n
    encode s.params s.kinds (.bdWr t n k v) = .bus t 32 true (bdOff L n k) v
    ∧ (L = .reference .ct → bdOff L n k = 0x1D000 + 0x20 * n.val + 4 * k.val)
    ∧ ∃ s', exec (.bdWr t n k v) s = .next s'
      ∧ (s'.tile t).bdw[n][k] = ⟨v, true⟩
      ∧ (∀ (n' : BdIx) (k' : BdWordIx), (n', k') ≠ (n, k) → (s'.tile t).bdw[n'][k'] = (s.tile t).bdw[n'][k'])
      ∧ (∀ n' : BdIx, (s'.tile t).abCur[n'] = if n' = n ∧ k = 6 then .a else (s.tile t).abCur[n'])
      ∧ s'.tile t = { s.tile t with bdw := (s'.tile t).bdw, abCur := (s'.tile t).abCur }
      ∧ (∀ u, u ≠ t → s'.tile u = s.tile u)
      ∧ SameMemory s s'
      ∧ s' = { s with tiles := s'.tiles, pending := s'.pending }
      ∧ (inUse → s'.pending = some (.bdInUseWrite n)
          ∧ (s.Clean → step s' = .next { s' with pending := none, faults := [.bdInUseWrite n] }))
      ∧ (¬ inUse → s'.pending = s.pending)

/-- O24. BD_RD (R192, R140). -/
def Obligations.DescriptorRead : Prop :=
  ∀ (s : State) (t : TileId) (n : BdIx) (k : BdWordIx), s.kind t = .ct →
    let L := s.layout t
    encode s.params s.kinds (.bdRd t n k) = .bus t 32 false (bdOff L n k) 0
    ∧ (L = .reference .ct → bdOff L n k = 0x1D000 + 0x20 * n.val + 4 * k.val ∧ bdMask L.bd k
        = [0x03FF1FFF, 0x03FF1FFF, 0xFFFF1FFF, 0xFFFF1FFF, 0x0001F01F, 0x000001FF, 0xFFFFFFFF].getD k.val 0)
    ∧ (((s.tile t).bdw[n][k]).written = true →
      ∃ s', exec (.bdRd t n k) s = .next s' ∧ OnlyReadData s s'
        ∧ ReadsBack (bdMask L.bd k) ((s.tile t).bdw[n][k]).val s'.host.readData)
    ∧ (((s.tile t).bdw[n][k]).written = false →
      exec (.bdRd t n k) s = .next { s with faults := s.faults ++ [.unwritten (bdOff L n k)] })

/-- O25. CH_CTRL_WR and the channel reset (R251, R257, R403), CH_STARTBD_WR (R253). -/
def Obligations.ChannelWrites : Prop :=
  ∀ (s : State) (t : TileId) (c : ChIx) (v : Word), s.kind t = .ct →
    let L := s.layout t
    (encode s.params s.kinds (.chCtrlWr t c v) = .bus t 32 true (ctrlOff L c) v
      ∧ encode s.params s.kinds (.chStartBdWr t c v) = .bus t 32 true (startBdOff L c) v
      ∧ (L = .reference .ct → ctrlOff L c = 0x1DE00 + 8 * c.val ∧ startBdOff L c = 0x1DE04 + 8 * c.val
          ∧ L.ctrlReset = 1 ∧ L.ctrlEnable = 0 ∧ L.startBd = 0))
    ∧ (∃ s', exec (.chCtrlWr t c v) s = .next s'
      ∧ (s'.tile t).ctrl[c] = ⟨v, true⟩
      ∧ (s'.tile t).walker[c] = (if v.getLsbD L.ctrlReset then ⟨.idle, 0, none, .a, 0, false⟩ else (s.tile t).walker[c])
      ∧ (∀ d : ChIx, d ≠ c → (s'.tile t).ctrl[d] = (s.tile t).ctrl[d] ∧ (s'.tile t).walker[d] = (s.tile t).walker[d])
      ∧ s'.tile t = { s.tile t with ctrl := (s'.tile t).ctrl, walker := (s'.tile t).walker }
      ∧ OnlyTile t s s' ∧ SameMemory s s')
    ∧ (((s.tile t).walker[c]).phase = .idle →
      ∃ s', exec (.chStartBdWr t c v) s = .next s'
        ∧ s'.tile t = { s.tile t with
            startBd := (s.tile t).startBd.set c ⟨v, true⟩
            walker := (s.tile t).walker.set c { (s.tile t).walker[c] with startPending := true } }
        ∧ OnlyTile t s s' ∧ SameMemory s s')
    ∧ (((s.tile t).walker[c]).phase ≠ .idle →
      exec (.chStartBdWr t c v) s = .next { s with faults := s.faults ++ [.startBdBusy c] })

/-- O26. The reads of R252, R254, R255, R302, R304 and R342, with the reserved bits of R140. -/
def Obligations.RegisterReads : Prop :=
  ∀ (s : State) (t : TileId),
    let L := s.layout t
    (L = .reference (s.kind t) → ctrlMask L = 0x00000003 ∧ startBdMask L = 0x0000000F ∧ mcfgMask L = 0xC00000FF
      ∧ scfgMask L = 0xC0000000 ∧ slotRegMask L = 0x1F1F0137)
    ∧ (s.kind t = .ct →
      (∀ c : ChIx, ∃ s', exec (.chCtrlRd t c) s = .next s' ∧ OnlyReadData s s'
        ∧ ReadsBack (ctrlMask L) ((s.tile t).ctrl[c]).val s'.host.readData)
      ∧ (∀ c : ChIx, ∃ s', exec (.chStartBdRd t c) s = .next s' ∧ OnlyReadData s s'
        ∧ ReadsBack (startBdMask L) ((s.tile t).startBd[c]).val s'.host.readData)
      ∧ ∀ i : Fin 2, ∃ s', exec (.chStatusRd t i) s = .next s' ∧ OnlyReadData s s'
        ∧ s'.host.readData = Config.freeWord s.draws)
    ∧ (∀ m : MasterId, m.val < s.params.nMasters (s.kind t) →
      ∃ s', exec (.mcfgRd t m) s = .next s' ∧ OnlyReadData s s'
        ∧ ReadsBack (mcfgMask L) ((s.tile t).mcfg[m]).val s'.host.readData)
    ∧ (∀ p : SlaveId, p.val < s.params.nSlaves (s.kind t) →
      (∃ s', exec (.scfgRd t p) s = .next s' ∧ OnlyReadData s s'
        ∧ ReadsBack (scfgMask L) ((s.tile t).scfg[p]).val s'.host.readData)
      ∧ ∀ k : SlotIx, ∃ s', exec (.slotRd t p k) s = .next s' ∧ OnlyReadData s s'
        ∧ ReadsBack (slotRegMask L) ((s.tile t).slot[p][k]).val s'.host.readData)

/-- O27. The illegal transactions of R143 (R161, R256): CH_STATUS_WR, LOCK_WR and LOCK_WR_BT end in the fault on every path. -/
def Obligations.ReservedWritesFault : Prop :=
  ∀ (s : State) (t : TileId) (v : Word),
    let L := s.layout t
    (s.kind t = .ct → ∀ i : Fin 2,
      exec (.chStatusWr t i v) s = .next { s with faults := s.faults ++ [.reservedWrite (statusOff L i)] }
      ∧ (L = .reference .ct → statusOff L i = 0x1DF00 + 0x10 * i.val))
    ∧ (∀ (l : LockIx) (op : Nat), op < L.lockStride →
      (s.kind t = .ct → exec (.lockWr t l op v) s
          = .next { s with faults := s.faults ++ [.reservedWrite (L.lockBase + L.lockStride * l.val + op)] })
      ∧ (s.kind t = .bt → exec (.lockWrBt t l op v) s
          = .next { s with faults := s.faults ++ [.reservedWrite (L.lockBase + L.lockStride * l.val + op)] }))
    ∧ (L = .reference .ct → L.lockBase = 0x1E000 ∧ L.lockStride = 0x80)
    ∧ (L = .reference .bt → L.lockBase = 0x14000 ∧ L.lockStride = 0x80)
    ∧ ∀ f, s.faults = [] → step { s with faults := s.faults ++ [f] } = .fault f

/-- O28. The acquire requests (R151 to R155), at the success bit of R133. -/
def Obligations.LockAcquireReads : Prop :=
  ∀ (s : State) (t : TileId) (l : LockIx) (i : Instr) (v : Option Bool) (q : LockKind),
    ((s.kind t = .ct ∧ ((i = .lockAcqNvRd t l ∧ v = none ∧ q = .acqNV) ∨ (i = .lockAcqV0Rd t l ∧ v = some false ∧ q = .acqV false)
        ∨ (i = .lockAcqV1Rd t l ∧ v = some true ∧ q = .acqV true)))
      ∨ (s.kind t = .bt ∧ ((i = .lockAcqNvRdBt t l ∧ v = none ∧ q = .acqNV)
        ∨ (i = .lockAcqV0RdBt t l ∧ v = some false ∧ q = .acqV false) ∨ (i = .lockAcqV1RdBt t l ∧ v = some true ∧ q = .acqV true)))) →
    (encode s.params s.kinds i = .bus t 32 false (lockOff (s.layout t) l q) 0
      ∧ (s.layout t = .reference (s.kind t) → lockOff (s.layout t) l q
          = (if s.kind t = .ct then 0x1E000 else 0x14000) + 0x80 * l.val + (match v with
              | none => 0x40
              | some false => 0x60
              | some true => 0x70)))
    ∧ ∃ s', exec i s = .next s' ∧ OnlyTileRead t s s' ∧ SameMemory s s'
      ∧ s'.tile t = { s.tile t with lock := (s'.tile t).lock }
      ∧ (∀ l', l' ≠ l → (s'.tile t).lock[l'] = (s.tile t).lock[l'])
      ∧ (((s.tile t).lock[l]).held = false ∧ (∀ b, v = some b → ((s.tile t).lock[l]).value = b) →
          (s'.tile t).lock[l] = ⟨true, ((s.tile t).lock[l]).value⟩
          ∧ s'.host.readData = 1#32 <<< lockOkBit s.params (s.kind t) q)
      ∧ (¬ (((s.tile t).lock[l]).held = false ∧ ∀ b, v = some b → ((s.tile t).lock[l]).value = b) →
          (s'.tile t).lock[l] = (s.tile t).lock[l] ∧ s'.host.readData = 0)

/-- O29. The release requests (R151, R157 to R160), at the success bit of R133. -/
def Obligations.LockReleaseReads : Prop :=
  ∀ (s : State) (t : TileId) (l : LockIx) (i : Instr) (v : Option Bool) (q : LockKind),
    ((s.kind t = .ct ∧ ((i = .lockRelNvRd t l ∧ v = none ∧ q = .relNV) ∨ (i = .lockRelV0Rd t l ∧ v = some false ∧ q = .relV false)
        ∨ (i = .lockRelV1Rd t l ∧ v = some true ∧ q = .relV true)))
      ∨ (s.kind t = .bt ∧ ((i = .lockRelNvRdBt t l ∧ v = none ∧ q = .relNV)
        ∨ (i = .lockRelV0RdBt t l ∧ v = some false ∧ q = .relV false) ∨ (i = .lockRelV1RdBt t l ∧ v = some true ∧ q = .relV true)))) →
    (encode s.params s.kinds i = .bus t 32 false (lockOff (s.layout t) l q) 0
      ∧ (s.layout t = .reference (s.kind t) → lockOff (s.layout t) l q
          = (if s.kind t = .ct then 0x1E000 else 0x14000) + 0x80 * l.val + (match v with
              | none => 0x00
              | some false => 0x20
              | some true => 0x30)))
    ∧ ∃ s', exec i s = .next s' ∧ OnlyTileRead t s s' ∧ SameMemory s s'
      ∧ s'.tile t = { s.tile t with lock := (s'.tile t).lock }
      ∧ (∀ l', l' ≠ l → (s'.tile t).lock[l'] = (s.tile t).lock[l'])
      ∧ (((s.tile t).lock[l]).held = true ∨ s.params.relFree = .succeed
            ∨ (s.params.relFree = .both ∧ Config.freeBit s.draws = true) →
          (s'.tile t).lock[l] = ⟨false, v.getD ((s.tile t).lock[l]).value⟩
          ∧ s'.host.readData = 1#32 <<< lockOkBit s.params (s.kind t) q)
      ∧ (((s.tile t).lock[l]).held = false ∧ (s.params.relFree = .fail
            ∨ (s.params.relFree = .both ∧ Config.freeBit s.draws = false)) →
          (s'.tile t).lock[l] = (s.tile t).lock[l] ∧ s'.host.readData = 0)

/-- O30. The port and slot writes (R301, R303, R341; reserved bits R140). -/
def Obligations.SwitchRegisterWrites : Prop :=
  ∀ (s : State) (t : TileId) (v : Word),
    let L := s.layout t
    (∀ m : MasterId, m.val < s.params.nMasters (s.kind t) →
      encode s.params s.kinds (.mcfgWr t m v) = .bus t 32 true (mcfgOff L m) v
      ∧ (L = .reference (s.kind t) → mcfgOff L m = 0x3F000 + 4 * m.val)
      ∧ ∃ s', exec (.mcfgWr t m v) s = .next s' ∧ OnlyTile t s s' ∧ SameMemory s s'
        ∧ s'.tile t = { s.tile t with mcfg := (s.tile t).mcfg.set m ⟨v, true⟩ })
    ∧ ∀ p : SlaveId, p.val < s.params.nSlaves (s.kind t) →
      (encode s.params s.kinds (.scfgWr t p v) = .bus t 32 true (scfgOff L p) v
        ∧ (L = .reference (s.kind t) → scfgOff L p = 0x3F100 + 4 * p.val)
        ∧ ∃ s', exec (.scfgWr t p v) s = .next s' ∧ OnlyTile t s s' ∧ SameMemory s s'
          ∧ s'.tile t = { s.tile t with scfg := (s.tile t).scfg.set p ⟨v, true⟩ })
      ∧ ∀ k : SlotIx, encode s.params s.kinds (.slotWr t p k v) = .bus t 32 true (slotOff L p k) v
        ∧ (L = .reference (s.kind t) → slotOff L p k = 0x3F200 + 0x10 * p.val + 4 * k.val)
        ∧ ∃ s', exec (.slotWr t p k v) s = .next s' ∧ OnlyTile t s s' ∧ SameMemory s s'
          ∧ s'.tile t = { s.tile t with slot := (s.tile t).slot.set p ((s.tile t).slot[p].set k ⟨v, true⟩) }

/-- O31. Offsets unmapped on a kind (R141) and engines of boundary tiles (R193); that exec answers so for ill-formed instructions is the choice of the model, log 20. -/
def Obligations.ForeignTransactionsFault : Prop :=
  ∀ (s : State) (t : TileId),
    let L := s.layout t
    let unmapped := fun o => { s with faults := s.faults ++ [.unmapped o] }
    (s.kind t = .bt →
      (∀ i ∈ ([.chResetAll t, .bdClearAll t] : List Instr), exec i s = .next { s with refusal := some .btDma })
      ∧ (∀ n, ∀ i ∈ ([.bdClear t n, .bdCommit t n, .chReset t n, .dmaInitialize t n] : List Instr),
          exec i s = .next { s with refusal := some .btDma })
      ∧ (∀ n a b c d e x y z ax, ∀ i ∈ ([.bdSetLock t n x a b y c z, .bdSet2D t n ax a b c, .bdSetInterleave t n a x b c,
            .bdSetAddrLenMode t n a b c d e, .bdSetNext t n a, .bdSetPacket t n a b c, .chControl t n a b,
            .chSetStartBd t n a] : List Instr), exec i s = .next { s with refusal := some .btDma })
      ∧ (∀ wa v, ∀ i ∈ ([.dmWr t wa v, .dmRd t wa] : List Instr), exec i s = .next (unmapped (dmOff L wa)))
      ∧ (∀ n k v, ∀ i ∈ ([.bdWr t n k v, .bdRd t n k] : List Instr), exec i s = .next (unmapped (bdOff L n k)))
      ∧ (∀ c v, ∀ i ∈ ([.chCtrlWr t c v, .chCtrlRd t c] : List Instr), exec i s = .next (unmapped (ctrlOff L c)))
      ∧ (∀ c v, ∀ i ∈ ([.chStartBdWr t c v, .chStartBdRd t c] : List Instr), exec i s = .next (unmapped (startBdOff L c)))
      ∧ (∀ j v, ∀ i ∈ ([.chStatusRd t j, .chStatusWr t j v] : List Instr), exec i s = .next (unmapped (statusOff L j)))
      ∧ (∀ l, exec (.lockAcqNvRd t l) s = .next (unmapped (lockOff L l .acqNV))
          ∧ exec (.lockAcqV0Rd t l) s = .next (unmapped (lockOff L l (.acqV false)))
          ∧ exec (.lockAcqV1Rd t l) s = .next (unmapped (lockOff L l (.acqV true)))
          ∧ exec (.lockRelNvRd t l) s = .next (unmapped (lockOff L l .relNV))
          ∧ exec (.lockRelV0Rd t l) s = .next (unmapped (lockOff L l (.relV false)))
          ∧ exec (.lockRelV1Rd t l) s = .next (unmapped (lockOff L l (.relV true))))
      ∧ ∀ l op v, exec (.lockWr t l op v) s = .next (unmapped (lockRegionOff L l op)))
    ∧ (s.kind t = .ct →
      (∀ l, exec (.lockAcqNvRdBt t l) s = .next (unmapped (lockOff L l .acqNV))
          ∧ exec (.lockAcqV0RdBt t l) s = .next (unmapped (lockOff L l (.acqV false)))
          ∧ exec (.lockAcqV1RdBt t l) s = .next (unmapped (lockOff L l (.acqV true)))
          ∧ exec (.lockRelNvRdBt t l) s = .next (unmapped (lockOff L l .relNV))
          ∧ exec (.lockRelV0RdBt t l) s = .next (unmapped (lockOff L l (.relV false)))
          ∧ exec (.lockRelV1RdBt t l) s = .next (unmapped (lockOff L l (.relV true))))
      ∧ (∀ l op v, exec (.lockWrBt t l op v) s = .next (unmapped (lockRegionOff L l op)))
      ∧ ∀ wa v, s.params.dmWords ≤ wa →
          ∀ i ∈ ([.dmWr t wa v, .dmRd t wa] : List Instr), exec i s = .next (unmapped (dmOff L wa)))
    ∧ (∀ l op v, L.lockStride ≤ op → ∀ i ∈ ([.lockWr t l op v, .lockWrBt t l op v] : List Instr),
        exec i s = .next (unmapped (lockRegionOff L l op)))
    ∧ (∀ (m : MasterId) v, ¬ m.val < s.params.nMasters (s.kind t) →
        ∀ i ∈ ([.mcfgWr t m v, .mcfgRd t m] : List Instr), exec i s = .next (unmapped (mcfgOff L m)))
    ∧ ∀ (p : SlaveId) (k : SlotIx) v, ¬ p.val < s.params.nSlaves (s.kind t) →
      (∀ i ∈ ([.scfgWr t p v, .scfgRd t p] : List Instr), exec i s = .next (unmapped (scfgOff L p)))
      ∧ ∀ i ∈ ([.slotWr t p k v, .slotRd t p k] : List Instr), exec i s = .next (unmapped (slotOff L p k))

/-- O32. WALK_START (R260) and WALK_ABANDON (R261, R257). -/
def Obligations.WalkStartsAndAbandons : Prop :=
  ∀ (s : State) (t : TileId) (c : ChIx), s.kind t = .ct →
    let w := (s.tile t).walker[c]
    let L := s.layout t
    let reset := ((s.tile t).ctrl[c]).val.getLsbD L.ctrlReset
    let enable := ((s.tile t).ctrl[c]).val.getLsbD L.ctrlEnable
    (L = .reference .ct → L.ctrlReset = 1 ∧ L.ctrlEnable = 0 ∧ L.startBd = 0)
    ∧ (w.phase = .idle ∧ reset = false ∧ enable = true ∧ w.startPending = true →
      ∃ (s' : State) (n : BdIx), exec (.walkStart t c) s = .next s' ∧ OnlyTile t s s' ∧ SameMemory s s'
        ∧ n.val = ((s.tile t).startBd[c]).val.toNat / 2 ^ L.startBd % 16
        ∧ s'.tile t = { s.tile t with
            walker := (s.tile t).walker.set c { w with cur := n, startPending := false, phase := .fetch } })
    ∧ (¬ (w.phase = .idle ∧ reset = false ∧ enable = true ∧ w.startPending = true) →
      exec (.walkStart t c) s = .next s)
    ∧ (w.phase ≠ .idle ∧ enable = false ∧ reset = false →
      ∃ s', exec (.walkAbandon t c) s = .next s' ∧ OnlyTile t s s' ∧ SameMemory s s'
        ∧ s'.tile t = { s.tile t with
            walker := (s.tile t).walker.set c { w with phase := .idle, snap := none, done := 0 } })
    ∧ (¬ (w.phase ≠ .idle ∧ enable = false ∧ reset = false) → exec (.walkAbandon t c) s = .next s)

/-- O33. WALK_FETCH (R262, R268).  R262 faults on any unwritten word; that the lowest one is named is the choice of the model, log 31 (DEDUCED). -/
def Obligations.WalkFetches : Prop :=
  ∀ (s : State) (t : TileId) (c : ChIx), s.kind t = .ct →
    let w := (s.tile t).walker[c]
    let bd := (s.tile t).bdw[w.cur]
    let b := unpackBd (s.layout t).bd #v[(bd[0]).val, (bd[1]).val, (bd[2]).val, (bd[3]).val, (bd[4]).val, (bd[5]).val, (bd[6]).val]
    w.phase = .fetch → ((s.tile t).ctrl[c]).val.getLsbD (s.layout t).ctrlReset = false →
    (∀ k : BdWordIx, (bd[k]).written = false → (∀ j : BdWordIx, j < k → (bd[j]).written = true) →
      exec (.walkFetch t c) s
        = .next { s with faults := s.faults ++ [.unwritten (bdOff (s.layout t) w.cur k)] })
    ∧ ((∀ k : BdWordIx, (bd[k]).written = true) →
      (b.valid = false → exec (.walkFetch t c) s = .next { s with faults := s.faults ++ [.bdInvalid w.cur] })
      ∧ (b.valid = true → b.fields.intlvEn = true → exec (.walkFetch t c) s = .next { s with refusal := some .interleave })
      ∧ (b.valid = true → b.fields.intlvEn = false → b.fields.fifoMode ≠ 0 →
          exec (.walkFetch t c) s = .next { s with refusal := some .fifoMode })
      ∧ (b.valid = true → b.fields.intlvEn = false → b.fields.fifoMode = 0 →
          ∃ s', exec (.walkFetch t c) s = .next s' ∧ OnlyTile t s s' ∧ SameMemory s s'
            ∧ s'.tile t = { s.tile t with
                walker := (s.tile t).walker.set c { w with
                  snap := some b
                  buf := if b.fields.abMode then (s.tile t).abCur[w.cur] else .a
                  done := 0, phase := .acquire } }))

/-- O34. WALK_ACQUIRE (R263, R151). -/
def Obligations.WalkAcquires : Prop :=
  ∀ (s : State) (t : TileId) (c : ChIx) (b : HwBd), s.kind t = .ct →
    let w := (s.tile t).walker[c]
    let f := b.fields.slot w.buf
    let next : Phase := if 2 ≤ c.val ∧ b.fields.pktEn = true then .header else .transfer
    w.phase = .acquire → ((s.tile t).ctrl[c]).val.getLsbD (s.layout t).ctrlReset = false → w.snap = some b →
    ∀ l : LockIx, l.val = f.lockId.toNat →
    (f.acqEn = false →
      ∃ s', exec (.walkAcquire t c) s = .next s' ∧ OnlyTile t s s' ∧ SameMemory s s'
        ∧ s'.tile t = { s.tile t with walker := (s.tile t).walker.set c { w with phase := next } })
    ∧ (f.acqEn = true → ((s.tile t).lock[l]).held = false
        ∧ (f.acqValEn = true → ((s.tile t).lock[l]).value = f.acqVal) →
      ∃ s', exec (.walkAcquire t c) s = .next s' ∧ OnlyTileOrder t s s' ∧ SameMemory s s'
        ∧ s'.tile t = { s.tile t with
            walker := (s.tile t).walker.set c { w with phase := next }
            lock := (s.tile t).lock.set l ⟨true, ((s.tile t).lock[l]).value⟩ })
    ∧ (f.acqEn = true → ¬ (((s.tile t).lock[l]).held = false
        ∧ (f.acqValEn = true → ((s.tile t).lock[l]).value = f.acqVal)) →
      exec (.walkAcquire t c) s = .next s)

/-- O35. WALK_HEADER (R264, R274). -/
def Obligations.WalkSendsHeader : Prop :=
  ∀ (s : State) (t : TileId) (c : ChIx) (b : HwBd), s.kind t = .ct → 2 ≤ c.val →
    let w := (s.tile t).walker[c]
    w.phase = .header → ((s.tile t).ctrl[c]).val.getLsbD (s.layout t).ctrlReset = false → w.snap = some b →
    ∀ sp : SlaveId, sp.val = s.params.slavesCt.dma.first + (c.val - 2) →
    (s.params.slavesCt = .reference .ct .slave → sp.val = c.val)
    ∧ (((s.tile t).inQ[sp]).length < s.params.portDepth →
      ∃ s', exec (.walkHeader t c) s = .next s' ∧ OnlyTile t s s' ∧ SameMemory s s'
        ∧ s'.tile t = { s.tile t with
            walker := (s.tile t).walker.set c { w with phase := .transfer }
            inQ := (s.tile t).inQ.set sp
              ((s.tile t).inQ[sp] ++ [⟨mkHeader s.params.header b.fields.pktType b.fields.pktId, false⟩]) })
    ∧ (s.params.portDepth ≤ ((s.tile t).inQ[sp]).length → exec (.walkHeader t c) s = .next s)

/-- O36. WALK_TRANSFER, memory to stream (R270).  What counts as a race and which words a racing read may return is log 12 (DEDUCED). -/
def Obligations.WalkSendsWord : Prop :=
  ∀ (s : State) (t : TileId) (c : ChIx) (b : HwBd), s.kind t = .ct → 2 ≤ c.val →
    let w := (s.tile t).walker[c]
    let a := addrGen2D s.params.addrGen (b.addr2D w.buf) w.done
    let final := w.done + 1 = b.fields.length.toNat + 1
    w.phase = .transfer → ((s.tile t).ctrl[c]).val.getLsbD (s.layout t).ctrlReset = false → w.snap = some b →
    ∀ sp : SlaveId, sp.val = s.params.slavesCt.dma.first + (c.val - 2) →
    (s.params.portDepth ≤ ((s.tile t).inQ[sp]).length → exec (.walkTransfer t c) s = .next s)
    ∧ (((s.tile t).inQ[sp]).length < s.params.portDepth → s.params.dmWords ≤ a →
      exec (.walkTransfer t c) s = .next { s with faults := s.faults ++ [.dmaAddr a] })
    ∧ (((s.tile t).inQ[sp]).length < s.params.portDepth → a < s.params.dmWords →
      ∃ s' d, exec (.walkTransfer t c) s = .next s' ∧ OnlyTile t s s' ∧ SameMemory s s'
        ∧ (s.racing (.walker t c) t a = [] →
            (∀ v, readWord (s.tile t).dm a = some v → d = v)
            ∧ (readWord (s.tile t).dm a = none → d = Config.freeWord (s.draws + 1)))
        ∧ (∃ o ∈ readWord (s.tile t).dm a :: s.racing (.walker t c) t a, d = o.getD (Config.freeWord (s.draws + 1)))
        ∧ s'.tile t = { s.tile t with
            walker := (s.tile t).walker.set c { w with done := w.done + 1, phase := if final then .release else .transfer }
            inQ := (s.tile t).inQ.set sp ((s.tile t).inQ[sp] ++ [⟨d, decide final⟩]) })

/-- O37. WALK_TRANSFER, stream to memory (R270, R273); races are log 12 (DEDUCED). -/
def Obligations.WalkStoresWord : Prop :=
  ∀ (s : State) (t : TileId) (c : ChIx) (b : HwBd), s.kind t = .ct → c.val < 2 →
    let w := (s.tile t).walker[c]
    let a := addrGen2D s.params.addrGen (b.addr2D w.buf) w.done
    w.phase = .transfer → ((s.tile t).ctrl[c]).val.getLsbD (s.layout t).ctrlReset = false → w.snap = some b →
    ∀ mp : MasterId, mp.val = s.params.mastersCt.dma.first + c.val →
    (s.params.mastersCt = .reference .ct .master → mp.val = c.val + 2)
    ∧ ((s.tile t).outQ[mp] = [] → exec (.walkTransfer t c) s = .next s)
    ∧ ∀ x rest, (s.tile t).outQ[mp] = x :: rest →
      (s.params.dmWords ≤ a → exec (.walkTransfer t c) s = .next { s with faults := s.faults ++ [.dmaAddr a] })
      ∧ (a < s.params.dmWords →
        ∃ s', exec (.walkTransfer t c) s = .next s' ∧ OnlyTileOrder t s s'
          ∧ readWord (s'.tile t).dm a = some x.data
          ∧ SameMemoryBut t a s s'
          ∧ (∀ who, who ≠ .walker t c → some x.data ∈ s'.racing who t a)
          ∧ s'.tile t = { s.tile t with
              walker := (s.tile t).walker.set c { w with
                done := w.done + 1
                phase := if w.done + 1 = b.fields.length.toNat + 1 then .release else .transfer }
              outQ := (s.tile t).outQ.set mp rest
              dm := (s'.tile t).dm })

/-- O38. WALK_RELEASE (R265, R151, R160). -/
def Obligations.WalkReleases : Prop :=
  ∀ (s : State) (t : TileId) (c : ChIx) (b : HwBd), s.kind t = .ct →
    let w := (s.tile t).walker[c]
    let f := b.fields.slot w.buf
    w.phase = .release → ((s.tile t).ctrl[c]).val.getLsbD (s.layout t).ctrlReset = false → w.snap = some b →
    ∀ l : LockIx, l.val = f.lockId.toNat →
    (f.relEn = false →
      ∃ s', exec (.walkRelease t c) s = .next s' ∧ OnlyTile t s s' ∧ SameMemory s s'
        ∧ s'.tile t = { s.tile t with walker := (s.tile t).walker.set c { w with phase := .advance } })
    ∧ (f.relEn = true → ((s.tile t).lock[l]).held = true ∨ s.params.relFree = .succeed
        ∨ (s.params.relFree = .both ∧ Config.freeBit s.draws = true) →
      ∃ s', exec (.walkRelease t c) s = .next s' ∧ OnlyTileOrder t s s' ∧ SameMemory s s'
        ∧ s'.tile t = { s.tile t with
            walker := (s.tile t).walker.set c { w with phase := .advance }
            lock := (s.tile t).lock.set l ⟨false, if f.relValEn then f.relVal else ((s.tile t).lock[l]).value⟩ })
    ∧ (f.relEn = true → ((s.tile t).lock[l]).held = false → s.params.relFree = .fail
        ∨ (s.params.relFree = .both ∧ Config.freeBit s.draws = false) →
      ∃ n, exec (.walkRelease t c) s = .next { s with draws := n })

/-- O39. WALK_ADVANCE (R266, R267). -/
def Obligations.WalkAdvances : Prop :=
  ∀ (s : State) (t : TileId) (c : ChIx) (b : HwBd), s.kind t = .ct →
    let w := (s.tile t).walker[c]
    let ctrl := ((s.tile t).ctrl[c]).val
    w.phase = .advance → ctrl.getLsbD (s.layout t).ctrlReset = false → w.snap = some b →
    ∀ n : BdIx, n.val = b.nextBd.toNat →
    ∃ s', exec (.walkAdvance t c) s = .next s' ∧ OnlyTile t s s' ∧ SameMemory s s'
      ∧ s'.tile t = { s.tile t with
          walker := (s.tile t).walker.set c
            (if ctrl.getLsbD (s.layout t).ctrlEnable = true ∧ b.fields.nextEn = true then { w with cur := n, phase := .fetch, snap := none, done := 0 }
             else { w with phase := .idle, snap := none, done := 0 })
          abCur := (s'.tile t).abCur }
      ∧ (s'.tile t).abCur[w.cur] = (if b.fields.abMode then (if w.buf = .a then .b else .a) else (s.tile t).abCur[w.cur])
      ∧ ∀ m : BdIx, m ≠ w.cur → (s'.tile t).abCur[m] = (s.tile t).abCur[m]

/-- O40. The configuration faults of R310 and R355; that the switch raises them at its own steps, on a drawn choice, is the choice of the model, log 16 (DEDUCED). -/
def Obligations.SwitchConfigurationFaults : Prop :=
  ∀ (s : State) (t : TileId) (p : SlaveId),
    let T := s.tile t
    ∀ i ∈ ([.swCircuit t p, .swPktStart t p, .swPktForward t p] : List Instr),
      ((∃ m, T.BadMaster s.params m) → Config.freeBit s.draws = false
        ∨ ∃ m, T.BadMaster s.params m ∧ exec i s = .next { s with faults := s.faults ++
          [if (T.mcfg[m]).val.getLsbD (s.layout t).mcfgPacket then .arbiterRangeMaster m else .circuitSource m] })
      ∧ ∀ s' m, exec i s = .next s' → (s'.faults = s.faults ++ [.circuitSource m]
          ∨ s'.faults = s.faults ++ [.arbiterRangeMaster m]) → T.BadMaster s.params m

/-- O41. SW_CIRCUIT (R310, R311, R313); R358 for a packet in flight; the draw is log 16. -/
def Obligations.CircuitStep : Prop :=
  ∀ (s : State) (t : TileId) (p : SlaveId),
    let T := s.tile t
    let L := s.layout t
    (¬ (∃ m, T.BadMaster s.params m) ∨ Config.freeBit s.draws = false) →
    let isTarget : MasterId → Prop := fun m => m.val < s.params.nMasters (s.kind t)
      ∧ (T.mcfg[m]).val.getLsbD L.mcfgEnable = true ∧ (T.mcfg[m]).val.getLsbD L.mcfgPacket = false
      ∧ (T.mcfg[m]).val.toNat / 2 ^ L.mcfgConfig % 128 = p.val
    let ready := p.val < s.params.nSlaves (s.kind t) ∧ (T.scfg[p]).val.getLsbD L.scfgEnable = true
      ∧ (T.scfg[p]).val.getLsbD L.scfgPacket = false ∧ T.pktRoute[p] = none ∧ (∃ m, isTarget m)
      ∧ ∀ m, isTarget m → (T.outQ[m]).length < s.params.portDepth
    (L = .reference (s.kind t) → L.mcfgEnable = 31 ∧ L.mcfgPacket = 30 ∧ L.mcfgConfig = 0 ∧ L.scfgEnable = 31
      ∧ L.scfgPacket = 30)
    ∧ (∀ w rest, T.inQ[p] = w :: rest → ready →
      ∃ s', exec (.swCircuit t p) s = .next s' ∧ OnlyTile t s s' ∧ SameMemory s s'
        ∧ s'.tile t = { T with inQ := T.inQ.set p rest, outQ := (s'.tile t).outQ }
        ∧ (∀ m, isTarget m → (s'.tile t).outQ[m] = T.outQ[m] ++ [w])
        ∧ ∀ m, ¬ isTarget m → (s'.tile t).outQ[m] = T.outQ[m])
    ∧ (T.inQ[p] = [] ∨ ¬ ready → ∃ n, n ≤ 1 ∧ exec (.swCircuit t p) s = .next { s with draws := s.draws + n })

/-- O42. SW_PKT_START (R350, R352, R355); the draw is log 16. -/
def Obligations.PacketStartStep : Prop :=
  ∀ (s : State) (t : TileId) (p : SlaveId),
    let T := s.tile t
    let L := s.layout t
    (¬ (∃ m, T.BadMaster s.params m) ∨ Config.freeBit s.draws = false) →
    let en : SlotIx → Prop := fun k => (T.slot[p][k]).val.getLsbD L.slotEnable = true
    let sid : SlotIx → BitVec 5 := fun k => BitVec.ofNat 5 ((T.slot[p][k]).val.toNat / 2 ^ L.slotId)
    let mask : SlotIx → BitVec 5 := fun k => BitVec.ofNat 5 ((T.slot[p][k]).val.toNat / 2 ^ L.slotMask)
    let bad : SlotIx → Prop := fun k => en k ∧ sid k &&& ~~~mask k ≠ 0
    let ready := p.val < s.params.nSlaves (s.kind t) ∧ (T.scfg[p]).val.getLsbD L.scfgEnable = true
      ∧ (T.scfg[p]).val.getLsbD L.scfgPacket = true ∧ T.pktRoute[p] = none
    (L = .reference (s.kind t) → L.slotId = 24 ∧ L.slotMask = 16 ∧ L.slotEnable = 8 ∧ L.slotMsel = 4 ∧ L.slotArb = 0)
    ∧ (T.inQ[p] = [] ∨ ¬ ready → ∃ n, n ≤ 1 ∧ exec (.swPktStart t p) s = .next { s with draws := s.draws + n })
    ∧ ∀ (h : StreamWord) (rest : List StreamWord), T.inQ[p] = h :: rest → ready →
    let id := hdrId s.params.header h.data
    let hit : SlotIx → Prop := fun k => en k ∧ id &&& mask k = sid k &&& mask k
    (∀ k, bad k → (∀ j, j < k → ¬ bad j) → ∃ n, n ≤ 1 ∧
      exec (.swPktStart t p) s = .next { s with faults := s.faults ++ [.slotIdOutsideMask p k], draws := s.draws + n })
    ∧ ((∀ k, ¬ bad k) → (∀ k, ¬ hit k) → ∃ n, n ≤ 1 ∧
      exec (.swPktStart t p) s = .next { s with faults := s.faults ++ [.noSlotMatch p id], draws := s.draws + n })
    ∧ ((∀ k, ¬ bad k) → (∃ k, hit k) → ∃ k, hit k ∧ ∃ n, n ≤ 1 ∧
        let a := BitVec.ofNat 3 ((T.slot[p][k]).val.toNat / 2 ^ L.slotArb)
        let ms := BitVec.ofNat 2 ((T.slot[p][k]).val.toNat / 2 ^ L.slotMsel)
        let isTarget : MasterId → Prop := fun m => m.val < s.params.nMasters (s.kind t)
          ∧ (T.mcfg[m]).val.getLsbD L.mcfgEnable = true ∧ (T.mcfg[m]).val.getLsbD L.mcfgPacket = true
          ∧ (T.mcfg[m]).val.toNat / 2 ^ L.mcfgConfig % 8 = a.toNat
          ∧ (T.mcfg[m]).val.getLsbD (L.mcfgConfig + (3 + ms.toNat)) = true
        (s.params.nArb ≤ a.toNat → exec (.swPktStart t p) s
            = .next { s with faults := s.faults ++ [.arbiterRangeSlot p k], draws := s.draws + n })
        ∧ (a.toNat < s.params.nArb → (∀ m, ¬ isTarget m) → exec (.swPktStart t p) s
            = .next { s with faults := s.faults ++ [.noPacketRoute p a ms], draws := s.draws + n })
        ∧ (a.toNat < s.params.nArb → (∃ m, isTarget m) →
            ∃ s' ts, exec (.swPktStart t p) s = .next s' ∧ OnlyTile t s s' ∧ SameMemory s s'
              ∧ (∀ m, m ∈ ts ↔ isTarget m) ∧ s'.tile t = { T with pktRoute := T.pktRoute.set p (some ⟨ts, a, true⟩) }))

/-- O43. SW_PKT_FORWARD (R353, R354, R357, R358).  That a forward waits for a target that another packet is passing through (R84, R356) is the reading of the model, log 17 (DEDUCED); the draw is log 16. -/
def Obligations.PacketForwardStep : Prop :=
  ∀ (s : State) (t : TileId) (p : SlaveId),
    let T := s.tile t
    let L := s.layout t
    (¬ (∃ m, T.BadMaster s.params m) ∨ Config.freeBit s.draws = false) →
    (T.pktRoute[p] = none ∨ T.inQ[p] = [] → ∃ n, n ≤ 1 ∧ exec (.swPktForward t p) s = .next { s with draws := s.draws + n })
    ∧ ∀ (r : PktRoute) (w : StreamWord) (rest : List StreamWord) (a : Fin 8),
    let receives : MasterId → Prop := fun m => m ∈ r.targets ∧ ¬ (r.first = true ∧ (T.mcfg[m]).val.getLsbD L.mcfgDrop = true)
    let ready := p.val < s.params.nSlaves (s.kind t) ∧ (T.scfg[p]).val.getLsbD L.scfgEnable = true
      ∧ (T.arbOwner[a] = none ∨ T.arbOwner[a] = some p)
      ∧ (∀ (x : SlaveId) y, x ≠ p → T.pktRoute[x] = some y → y.first = false → ∀ m ∈ y.targets, m ∉ r.targets)
      ∧ ∀ m, receives m → (T.outQ[m]).length < s.params.portDepth
    T.pktRoute[p] = some r → a.val = r.arb.toNat → T.inQ[p] = w :: rest →
    (L = .reference (s.kind t) → L.mcfgDrop = 7)
    ∧ (ready →
      ∃ s', exec (.swPktForward t p) s = .next s' ∧ OnlyTile t s s' ∧ SameMemory s s'
        ∧ s'.tile t = { T with
            inQ := T.inQ.set p rest
            outQ := (s'.tile t).outQ
            pktRoute := T.pktRoute.set p (if w.last then none else some { r with first := false })
            arbOwner := T.arbOwner.set a (if w.last then none else some p) }
        ∧ (∀ m, receives m → (s'.tile t).outQ[m] = T.outQ[m] ++ [w])
        ∧ ∀ m, ¬ receives m → (s'.tile t).outQ[m] = T.outQ[m])
    ∧ (¬ ready → ∃ n, n ≤ 1 ∧ exec (.swPktForward t p) s = .next { s with draws := s.draws + n })

/-- O44. ENV_STEP (R314; R8 for lock requests and data memory; log 9, 18; races are log 12, DEDUCED). -/
def Obligations.EnvironmentSteps : Prop :=
  ∀ (s : State) (t : TileId),
    let word := fun (q : LockKind) (ok : Bool) => if ok then 1#32 <<< lockOkBit s.params (s.kind t) q else 0
    (∀ (p : SlaveId) (w : StreamWord),
      let fed := p.val < s.params.nSlaves (s.kind t)
        ∧ ¬ (s.kind t = .ct ∧ (p = s.params.channelSlave 2 ∨ p = s.params.channelSlave 3))
      (fed → ((s.tile t).inQ[p]).length < s.params.portDepth →
        ∃ s', exec (.envStep t (.push p w)) s = .next s' ∧ OnlyTile t s s' ∧ SameMemory s s'
          ∧ s'.tile t = { s.tile t with inQ := (s.tile t).inQ.set p ((s.tile t).inQ[p] ++ [w]) })
      ∧ (fed → s.params.portDepth ≤ ((s.tile t).inQ[p]).length → exec (.envStep t (.push p w)) s = .next s)
      ∧ (¬ fed → exec (.envStep t (.push p w)) s = .next s))
    ∧ (∀ m : MasterId,
      let drained := m.val < s.params.nMasters (s.kind t)
        ∧ ¬ (s.kind t = .ct ∧ (m = s.params.channelMaster 0 ∨ m = s.params.channelMaster 1))
      (drained → ∀ w rest, (s.tile t).outQ[m] = w :: rest →
        ∃ s', exec (.envStep t (.pop m)) s = .next s' ∧ OnlyTile t s s' ∧ SameMemory s s'
          ∧ s'.tile t = { s.tile t with
              outQ := (s.tile t).outQ.set m rest, drained := (s.tile t).drained ++ [(m, w)] })
      ∧ ((s.tile t).outQ[m] = [] ∨ ¬ drained → exec (.envStep t (.pop m)) s = .next s))
    ∧ (s.params.slavesCt = .reference .ct .slave → (s.params.channelSlave 2).val = 2 ∧ (s.params.channelSlave 3).val = 3)
    ∧ (s.params.mastersCt = .reference .ct .master → (s.params.channelMaster 0).val = 2 ∧ (s.params.channelMaster 1).val = 3)
    ∧ (∀ who (l : LockIx) (v : Option Bool) (ok : Bool) (L' : Lock) (q : LockKind),
      let L := (s.tile t).lock[l]
      (q = (match v with | none => .acqNV | some b => .acqV b)
          ∧ ((ok = true ∧ L.held = false ∧ (∀ b, v = some b → L.value = b) ∧ L' = ⟨true, L.value⟩)
            ∨ (ok = false ∧ ¬ (L.held = false ∧ ∀ b, v = some b → L.value = b) ∧ L' = L))
        ∨ q = (match v with | none => .relNV | some b => .relV b)
          ∧ ((ok = true ∧ (L.held = true ∨ s.params.relFree = .succeed
                ∨ (s.params.relFree = .both ∧ Config.freeBit s.draws = true)) ∧ L' = ⟨false, v.getD L.value⟩)
            ∨ (ok = false ∧ L.held = false ∧ (s.params.relFree = .fail
                ∨ (s.params.relFree = .both ∧ Config.freeBit s.draws = false)) ∧ L' = L))) →
      ∃ s', exec (.envStep t (.lock who l q)) s = .next s' ∧ OnlyTileOrder t s s' ∧ SameMemory s s'
        ∧ s'.tile t = { s.tile t with lock := (s.tile t).lock.set l L', envData := word q ok })
    ∧ ∀ who (wa : Nat) (v : Word),
      (s.kind t = .ct → wa < s.params.dmWords →
        (∃ s', exec (.envStep t (.write who wa v)) s = .next s' ∧ OnlyTileOrder t s s' ∧ SameMemoryBut t wa s s'
          ∧ readWord (s'.tile t).dm wa = some v
          ∧ (∀ a, a ≠ envAgent t who → some v ∈ s'.racing a t wa)
          ∧ s'.tile t = { s.tile t with dm := (s'.tile t).dm })
        ∧ ∃ s' d, exec (.envStep t (.read who wa)) s = .next s' ∧ OnlyTile t s s' ∧ SameMemory s s'
          ∧ s'.tile t = { s.tile t with envData := d }
          ∧ (s.racing (envAgent t who) t wa = [] →
              (∀ x, readWord (s.tile t).dm wa = some x → d = x)
              ∧ (readWord (s.tile t).dm wa = none → d = Config.freeWord (s.draws + 1)))
          ∧ ∃ o ∈ readWord (s.tile t).dm wa :: s.racing (envAgent t who) t wa, d = o.getD (Config.freeWord (s.draws + 1)))
      ∧ (s.kind t = .bt ∨ s.params.dmWords ≤ wa →
        exec (.envStep t (.write who wa v)) s = .next s ∧ exec (.envStep t (.read who wa)) s = .next s)

/-- O45. poll (R163, R168).  That the number of further attempts is drawn once, at the start, is the choice of the model, log 15 (DESIGN CHOICE); that a poll whose read ends the execution does nothing more is its reading of R372, log 30 (DEDUCED). -/
def Obligations.PollAttempts : Prop :=
  (∀ (s : State) (t : TileId) (off mask expected timeout : Nat),
    ∃ s', exec (.poll t off mask expected timeout) s = .next s' ∧ OnlyHost s s'
      ∧ s'.host = { s.host with
          queue := .pollTry t off mask expected (if timeout = 0 then 0 else Config.freeNat s.draws) :: s.host.queue
          result := none })
  ∧ ∀ (s s1 : State) (t : TileId) (off mask expected more : Nat) (q : List HostOp),
      s.host.queue = .pollTry t off mask expected more :: q →
      hostTurn { s with host := { s.host with queue := .bus t 32 false off 0 :: q } } = .next s1 →
      (s1.ended = true → hostTurn s = .next s1)
      ∧ (s1.ended = false → s1.host.readData.toNat &&& mask = expected →
          hostTurn s = .next { s1 with host := { s1.host with result := some (.bool true) } })
      ∧ (s1.ended = false → s1.host.readData.toNat &&& mask ≠ expected →
          (more = 0 → hostTurn s = .next { s1 with host := { s1.host with result := some (.bool false) } })
          ∧ ∀ n, more = n + 1 → hostTurn s
              = .next { s1 with host := { s1.host with queue := .pollTry t off mask expected n :: s1.host.queue } })

/-- O46. The lock commands (R164 to R168), every timeout, and a release of a free lock under each P_REL_FREE. -/
def Obligations.LockCommands : Prop :=
  (∀ nv, readValArg nv .none = some none ∧ readValArg nv (.num nv) = some none
    ∧ (nv ≠ 0 → readValArg nv (.num 0) = some (some false)) ∧ (nv ≠ 1 → readValArg nv (.num 1) = some (some true))
    ∧ ∀ n, n ≠ nv → n ≠ 0 → n ≠ 1 → readValArg nv (.num n) = none)
  ∧ (∀ (s : State) (t : TileId) (n : Nat) (x : ValArg) (timeout : Nat),
    (∀ i ∈ ([.lockAcquire t n x timeout, .lockRelease t n x timeout] : List Instr),
      (16 ≤ n → exec i s = .next { s with host := { s.host with result := some (.err .badLockId) } })
      ∧ (n < 16 → readValArg s.params.noValue x = none →
          exec i s = .next { s with host := { s.host with result := some (.err .badLockValue) } }))
    ∧ ∀ (l : LockIx) (v : Option Bool), l.val = n → readValArg s.params.noValue x = some v →
      let polls := fun (i : Instr) (q : LockKind) => ∃ s', exec i s = .next s' ∧ OnlyHost s s'
        ∧ s'.host = { s.host with
            queue := .pollTry t (lockOff (s.layout t) l q) (2 ^ lockOkBit s.params (s.kind t) q)
              (2 ^ lockOkBit s.params (s.kind t) q) (if timeout = 0 then 0 else Config.freeNat s.draws) :: s.host.queue
            result := none }
      polls (.lockAcquire t n x timeout) (match v with | none => .acqNV | some b => .acqV b)
      ∧ polls (.lockRelease t n x timeout) (match v with | none => .relNV | some b => .relV b))
  ∧ ∀ (s : State) (t : TileId) (l : LockIx) (v : Option Bool) (ok : Bool) (L' : Lock) (q : LockKind) (more : Nat)
      (rest : List HostOp),
    let L := (s.tile t).lock[l]
    let bit := 2 ^ lockOkBit s.params (s.kind t) q
    s.Clean → s.params.IsMap → s.host.queue = .pollTry t (lockOff (s.layout t) l q) bit bit more :: rest →
    (q = (match v with | none => .acqNV | some b => .acqV b)
        ∧ ((ok = true ∧ L.held = false ∧ (∀ b, v = some b → L.value = b) ∧ L' = ⟨true, L.value⟩)
          ∨ (ok = false ∧ ¬ (L.held = false ∧ ∀ b, v = some b → L.value = b) ∧ L' = L))
      ∨ q = (match v with | none => .relNV | some b => .relV b)
        ∧ ((ok = true ∧ (L.held = true ∨ s.params.relFree = .succeed
              ∨ (s.params.relFree = .both ∧ Config.freeBit s.draws = true)) ∧ L' = ⟨false, v.getD L.value⟩)
          ∨ (ok = false ∧ L.held = false ∧ (s.params.relFree = .fail
              ∨ (s.params.relFree = .both ∧ Config.freeBit s.draws = false)) ∧ L' = L))) →
    ∃ s', hostTurn s = .next s' ∧ s'.Clean ∧ SameMemory s s' ∧ s'.host.eng = s.host.eng
      ∧ (∀ u, u ≠ t → s'.tile u = s.tile u) ∧ s'.tile t = { s.tile t with lock := (s.tile t).lock.set l L' }
      ∧ (ok = true → s'.host.result = some (.bool true) ∧ s'.host.queue = rest)
      ∧ (ok = false → more = 0 → s'.host.result = some (.bool false) ∧ s'.host.queue = rest)
      ∧ ∀ k, ok = false → more = k + 1 → s'.host.result = s.host.result
          ∧ s'.host.queue = .pollTry t (lockOff (s.layout t) l q) bit bit k :: rest

/-- O47. bd.setLock (R194, R193, R371). -/
def Obligations.SetLockStores : Prop :=
  ∀ (s : State) (e : TileId) (k : Nat) (x : SlotArg) (lockId relEn : Nat) (relVal : ValArg) (acqEn : Nat) (acqVal : ValArg),
    s.kind e = .ct →
    let i := Instr.bdSetLock e k x lockId relEn relVal acqEn acqVal
    let rv := readValArg s.params.noValue relVal
    let av := readValArg s.params.noValue acqVal
    let err := fun r => { s with host := { s.host with result := some (.err r) } }
    (16 ≤ k → exec i s = .next (err .badBdIndex))
    ∧ (k < 16 → x = .other → exec i s = .next (err .badSlot))
    ∧ (k < 16 → x ≠ .other → 16 ≤ lockId → exec i s = .next (err .badLockId))
    ∧ (k < 16 → x ≠ .other → lockId < 16 → ¬ (relEn < 2 ∧ acqEn < 2) → exec i s = .next (err .badFlag))
    ∧ (k < 16 → x ≠ .other → lockId < 16 → relEn < 2 → acqEn < 2 → rv = none ∨ av = none →
        exec i s = .next (err .badLockValue))
    ∧ ∀ (n : BdIx) (r a : Option Bool), n.val = k → x ≠ .other → lockId < 16 → relEn < 2 → acqEn < 2 → rv = some r →
        av = some a →
        let b := (s.engine e).bd[n]
        let upd : SlotFields → SlotFields := fun f => { f with
          lockId := BitVec.ofNat 4 lockId, relEn := decide (relEn = 1), acqEn := decide (acqEn = 1)
          relVal := r.getD f.relVal, relValEn := r.isSome || f.relValEn
          acqVal := a.getD f.acqVal, acqValEn := a.isSome || f.acqValEn }
        let b' := if x = .a then { b with fields := { b.fields with a := upd b.fields.a } }
          else { b with fields := { b.fields with b := upd b.fields.b } }
        exec i s = .next { s with host := { s.host with
          eng := s.host.eng.set e (some { s.engine e with bd := (s.engine e).bd.set n b' }), result := some .ok } }

/-- O48. The setters of R195, R196, R198 and R199 (R134), with their checks (R378). -/
def Obligations.SetFieldsStore : Prop :=
  ∀ (s : State) (e : TileId) (k : Nat), s.kind e = .ct →
    let err := fun r => { s with host := { s.host with result := some (.err r) } }
    let stored := fun (n : BdIx) (b' : MirrorBd) => { s with host := { s.host with
      eng := s.host.eng.set e (some { s.engine e with bd := (s.engine e).bd.set n b' }), result := some .ok } }
    (∀ axis incr wrap offset, let i := Instr.bdSet2D e k axis incr wrap offset
      let c3 := 1 ≤ incr ∧ incr ≤ 256
      let c4 := 1 ≤ wrap ∧ wrap ≤ 256
      (16 ≤ k → exec i s = .next (err .badBdIndex))
      ∧ (k < 16 → axis = .other → exec i s = .next (err .badAxis))
      ∧ (k < 16 → axis ≠ .other → ¬ (c3 ∧ c4 ∧ offset < 2 ^ 13) → exec i s = .next (err .fieldTooWide))
      ∧ ∀ n : BdIx, n.val = k → c3 → c4 → offset < 2 ^ 13 → let b := (s.engine e).bd[n]
        (axis = .x → exec i s = .next (stored n { b with fields := { b.fields with
          xIncr := BitVec.ofNat 8 (incr - 1), xWrap := BitVec.ofNat 8 (wrap - 1), xOff := BitVec.ofNat 13 offset } }))
        ∧ (axis = .y → exec i s = .next (stored n { b with fields := { b.fields with
          yIncr := BitVec.ofNat 8 (incr - 1), yWrap := BitVec.ofNat 8 (wrap - 1), yOff := BitVec.ofNat 13 offset } })))
    ∧ (∀ en which count current, let i := Instr.bdSetInterleave e k en which count current
      (16 ≤ k → exec i s = .next (err .badBdIndex))
      ∧ (k < 16 → 2 ≤ en → exec i s = .next (err .badFlag))
      ∧ (k < 16 → en < 2 → which = .other → exec i s = .next (err .badSlot))
      ∧ (k < 16 → en < 2 → which ≠ .other → count % 4 ≠ 0 → exec i s = .next (err .intlvCountNotMult4))
      ∧ (k < 16 → en < 2 → which ≠ .other → count % 4 = 0 → ¬ (count < 256 ∧ current < 256) →
          exec i s = .next (err .fieldTooWide))
      ∧ ∀ n : BdIx, n.val = k → en < 2 → which ≠ .other → count % 4 = 0 → count < 256 → current < 256 →
        let b := (s.engine e).bd[n]
        exec i s = .next (stored n { b with fields := { b.fields with
          intlvEn := decide (en = 1), intlvWhich := decide (which = .b)
          intlvCnt := BitVec.ofNat 8 count, intlvCur := BitVec.ofNat 8 current } }))
    ∧ (∀ next, let i := Instr.bdSetNext e k next
      (16 ≤ k → exec i s = .next (err .badBdIndex))
      ∧ (k < 16 → 16 ≤ next → next ≠ 0xFF → exec i s = .next (err .badNextBd))
      ∧ ∀ n : BdIx, n.val = k → let b := (s.engine e).bd[n]
        (next < 16 → exec i s
          = .next (stored n { b with nextBd := BitVec.ofNat 8 next, fields := { b.fields with nextEn := true } }))
        ∧ (next = 0xFF → exec i s = .next (stored n { b with nextBd := 0xFF, fields := { b.fields with nextEn := false } })))
    ∧ ∀ en type id, let i := Instr.bdSetPacket e k en type id
      (16 ≤ k → exec i s = .next (err .badBdIndex))
      ∧ (k < 16 → 2 ≤ en → exec i s = .next (err .badFlag))
      ∧ (k < 16 → en < 2 → ¬ (type < 32 ∧ id < 32) → exec i s = .next (err .fieldTooWide))
      ∧ ∀ n : BdIx, n.val = k → en < 2 → type < 32 → id < 32 → let b := (s.engine e).bd[n]
        exec i s = .next (stored n { b with fields := { b.fields with
          pktEn := decide (en = 1), pktType := BitVec.ofNat 5 type, pktId := BitVec.ofNat 5 id } })

/-- O49. bd.setAddrLenMode (R197). -/
def Obligations.SetAddrLenModeStores : Prop :=
  ∀ (s : State) (e : TileId) (k baseA baseB len db fifo : Nat), s.kind e = .ct →
    let i := Instr.bdSetAddrLenMode e k baseA baseB len db fifo
    let err := fun r => { s with host := { s.host with result := some (.err r) } }
    let c1 := k < 16
    let c2 := fifo = 0 ∨ fifo = 1 ∨ fifo = 2
    let c3 := baseA % 4 = 0 ∧ baseB % 4 = 0
    let c4 := fifo ≠ 0 → len / 4 % 4 = 0
    let c5 := db = 0 ∨ db = 1
    let c6 := baseA / 4 < 2 ^ 13 ∧ baseB / 4 < 2 ^ 13
    let c7 := 1 ≤ len / 4
    let c8 := len / 4 - 1 < 2 ^ 13
    (¬ c1 → exec i s = .next (err .badBdIndex))
    ∧ (c1 → ¬ c2 → exec i s = .next (err .badFifoMode))
    ∧ (c1 → c2 → ¬ c3 → exec i s = .next (err .misaligned))
    ∧ (c1 → c2 → c3 → ¬ c4 → exec i s = .next (err .lengthFifoAlign))
    ∧ (c1 → c2 → c3 → c4 → ¬ c5 → exec i s = .next (err .badFlag))
    ∧ (c1 → c2 → c3 → c4 → c5 → ¬ c6 → exec i s = .next (err .fieldTooWide))
    ∧ (c1 → c2 → c3 → c4 → c5 → c6 → ¬ c7 → exec i s = .next (err .lengthZero))
    ∧ (c1 → c2 → c3 → c4 → c5 → c6 → c7 → ¬ c8 → exec i s = .next (err .fieldTooWide))
    ∧ ∀ n : BdIx, n.val = k → c2 → c3 → c4 → c5 → c6 → c7 → c8 →
        let b := (s.engine e).bd[n]
        let b' := { b with fields := { b.fields with
            a := { b.fields.a with base := BitVec.ofNat 13 (baseA / 4) }
            b := { b.fields.b with base := BitVec.ofNat 13 (baseB / 4) }
            length := BitVec.ofNat 13 (len / 4 - 1), abMode := decide (db = 1), fifoMode := BitVec.ofNat 2 fifo } }
        exec i s = .next { s with host := { s.host with
          eng := s.host.eng.set e (some { s.engine e with bd := (s.engine e).bd.set n b' }), result := some .ok } }

/-- O50. bd.clear and bd.clearAll (R200, R201, R52). -/
def Obligations.ClearsMirror : Prop :=
  let z : SlotFields := ⟨0, false, false, false, false, false, false, 0⟩
  let cleared : MirrorBd := ⟨⟨z, z, 0, 255, 1, 255, 255, 256, 0, 0, false, 0, false, 0, false, false, 0, false, 0⟩, 0⟩
  ∀ (s : State) (e : TileId), s.kind e = .ct →
    (∀ n : BdIx, exec (.bdClear e n.val) s = .next { s with host := { s.host with
      eng := s.host.eng.set e (some { s.engine e with bd := (s.engine e).bd.set n cleared }), result := some .ok } })
    ∧ (∀ k, 16 ≤ k → exec (.bdClear e k) s = .next { s with host := { s.host with result := some (.err .badBdIndex) } })
    ∧ ∃ s', exec (.bdClearAll e) s = .next s' ∧ OnlyHost s s' ∧ s'.host.queue = s.host.queue
        ∧ s'.host.result = some .ok ∧ (∀ n : BdIx, (s'.engine e).bd[n] = cleared)
        ∧ (s'.engine e).startBd = (s.engine e).startBd ∧ (s'.engine e).ready = (s.engine e).ready
        ∧ ∀ f, f ≠ e → s'.engine f = s.engine f

/-- O51. R371 over all instructions. -/
def Obligations.ErrChangesNothing : Prop :=
  ∀ i s s' r, exec i s = .next s' → s.host.result ≠ some (.err r) → s'.host.result = some (.err r) →
    s' = { s with host := { s.host with result := some (.err r) } }

/-- O52. bd.commit and its round-trip law (R203, R204), with no other agent between the writes. -/
def Obligations.CommitRoundTrip : Prop :=
  ∀ (s : State) (e : TileId), s.kind e = .ct →
    let L := s.layout e
    (∀ k, 16 ≤ k → exec (.bdCommit e k) s = .next { s with host := { s.host with result := some (.err .badBdIndex) } })
    ∧ ∀ n : BdIx, s.Clean → s.params.IsMap →
      (s.params.bdInUse = .snapshot ∨ ∀ c : ChIx, ((s.tile e).walker[c]).phase = .idle
        ∨ ((s.tile e).walker[c]).phase = .fetch ∨ ((s.tile e).walker[c]).cur ≠ n) →
      let b := (s.engine e).bd[n]
      ∃ s1 s2, exec (.bdCommit e n.val) s = .next s1 ∧ hostRun 8 s1 = .next s2
        ∧ s1.host.queue = (List.finRange 7).map (fun k => .bus e 32 true (bdOff L n k) (packBd L.bd b)[k])
            ++ .ret .ok :: s.host.queue
        ∧ (L = .reference .ct → ∀ k, bdOff L n k = 0x1D000 + 0x20 * n.val + 4 * k.val)
        ∧ s2 = { s with tiles := s2.tiles, host := { s.host with result := some .ok } }
        ∧ (∀ u, u ≠ e → s2.tile u = s.tile u) ∧ SameMemory s s2
        ∧ s2.tile e = { s.tile e with bdw := (s2.tile e).bdw, abCur := (s.tile e).abCur.set n .a }
        ∧ (∀ k : BdWordIx, (s2.tile e).bdw[n][k] = ⟨(packBd L.bd b)[k], true⟩)
        ∧ (∀ m : BdIx, m ≠ n → (s2.tile e).bdw[m] = (s.tile e).bdw[m])
        ∧ ∀ k : BdWordIx, ∃ s3, exec (.bdRd e n k) s2 = .next s3 ∧ s3.host.readData = (packBd L.bd b)[k]

/-- O53. ch.control (R280, R257) and ch.setStartBd (R281, R53), run with no other agent stepping. -/
def Obligations.ChannelCommands : Prop :=
  ∀ (s : State) (e : TileId), s.kind e = .ct →
    let L := s.layout e
    let err := fun r => { s with host := { s.host with result := some (.err r) } }
    let begun := fun ops => { s with host := { s.host with queue := ops ++ .ret .ok :: s.host.queue, result := none } }
    let noted := fun (c : ChIx) (x : BitVec 8) => s.host.eng.set e (some { s.engine e with
      startBd := (s.engine e).startBd.set c x })
    (∀ c reset enable, (4 ≤ c → exec (.chControl e c reset enable) s = .next (err .badChannel))
      ∧ (c < 4 → ¬ (reset < 2 ∧ enable < 2) → exec (.chControl e c reset enable) s = .next (err .badFlag))
      ∧ (c < 4 → reset < 2 → enable < 2 →
          let v := setField reset L.ctrlReset 1 ||| setField enable L.ctrlEnable 1
          exec (.chControl e c reset enable) s = .next (begun [.bus e 32 true (L.ctrlBase + L.ctrlStride * c) v])
          ∧ (L = .reference .ct → L.ctrlBase + L.ctrlStride * c = 0x1DE00 + 8 * c ∧ v.toNat = 2 * reset + enable)))
    ∧ (s.Clean → s.params.IsMap → L.ChannelFits → ∀ (c : ChIx) (reset enable : Nat), reset < 2 → enable < 2 →
        ∃ s1 s2 v, exec (.chControl e c.val reset enable) s = .next s1 ∧ hostRun 2 s1 = .next s2
          ∧ v = setField reset L.ctrlReset 1 ||| setField enable L.ctrlEnable 1
          ∧ v.getLsbD L.ctrlReset = decide (reset = 1) ∧ v.getLsbD L.ctrlEnable = decide (enable = 1)
          ∧ s2 = { s with tiles := s2.tiles, host := { s.host with result := some .ok } }
          ∧ (∀ u, u ≠ e → s2.tile u = s.tile u) ∧ SameMemory s s2
          ∧ s2.tile e = { s.tile e with
              ctrl := (s.tile e).ctrl.set c ⟨v, true⟩
              walker := if reset = 1 then (s.tile e).walker.set c ⟨.idle, 0, none, .a, 0, false⟩ else (s.tile e).walker })
    ∧ (∀ c bd, (4 ≤ c → exec (.chSetStartBd e c bd) s = .next (err .badChannel))
      ∧ (c < 4 → ¬ (bd < 16 ∨ bd = 0xFF) → exec (.chSetStartBd e c bd) s = .next (err .badStartBd)))
    ∧ ∀ (c : ChIx) (bd : Nat),
      (bd < 16 →
        exec (.chSetStartBd e c.val bd) s = .next (begun
          [.bus e 32 true (L.startBdBase + L.startBdStride * c.val) (setField bd L.startBd 4),
           .noteStartBd e c (BitVec.ofNat 8 bd)])
        ∧ (L = .reference .ct → L.startBdBase + L.startBdStride * c.val = 0x1DE04 + 8 * c.val
            ∧ (setField bd L.startBd 4).toNat = bd)
        ∧ (s.Clean → s.params.IsMap → L.ChannelFits → ∃ s1 s2, exec (.chSetStartBd e c.val bd) s = .next s1
          ∧ hostRun 3 s1 = .next s2
          ∧ (((s.tile e).walker[c]).phase = .idle →
            s2 = { s with tiles := s2.tiles, host := { s.host with
              eng := noted c (BitVec.ofNat 8 bd), result := some .ok } }
            ∧ (∀ u, u ≠ e → s2.tile u = s.tile u) ∧ SameMemory s s2
            ∧ ∃ v, v.toNat / 2 ^ L.startBd % 16 = bd ∧ s2.tile e = { s.tile e with
              startBd := (s.tile e).startBd.set c ⟨v, true⟩
              walker := (s.tile e).walker.set c { (s.tile e).walker[c] with startPending := true } })
          ∧ (((s.tile e).walker[c]).phase ≠ .idle →
            s2 = { s with faults := [.startBdBusy c], host := { s.host with
              queue := .noteStartBd e c (BitVec.ofNat 8 bd) :: .ret .ok :: s.host.queue, result := none } })))
      ∧ exec (.chSetStartBd e c.val 0xFF) s = .next (begun [.noteStartBd e c 0xFF])
      ∧ (s.Clean → ∃ s1, exec (.chSetStartBd e c.val 0xFF) s = .next s1
        ∧ hostRun 2 s1 = .next { s with host := { s.host with eng := noted c 0xFF, result := some .ok } })

/-- O54. ch.reset and ch.resetAll run to their end states (R282, R283), no other agent stepping. -/
def Obligations.ChannelResetRun : Prop :=
  ∀ (s : State) (e : TileId), s.kind e = .ct →
    (∀ k, 4 ≤ k → exec (.chReset e k) s = .next { s with host := { s.host with result := some (.err .badChannel) } })
    ∧ (s.Clean → s.params.IsMap → (s.layout e).ChannelFits → ∀ c : ChIx, ∃ s1 s2, exec (.chReset e c.val) s = .next s1 ∧ hostRun 4 s1 = .next s2
      ∧ s2 = { s with tiles := s2.tiles, host := { s.host with
          eng := s.host.eng.set e (some { s.engine e with startBd := (s.engine e).startBd.set c 0xFF }), result := some .ok } }
      ∧ (∀ u, u ≠ e → s2.tile u = s.tile u) ∧ SameMemory s s2
      ∧ s2.tile e = { s.tile e with
          ctrl := (s.tile e).ctrl.set c ⟨0, true⟩, walker := (s.tile e).walker.set c ⟨.idle, 0, none, .a, 0, false⟩ })
    ∧ (s.Clean → s.params.IsMap → (s.layout e).ChannelFits → ∃ s1 s2, exec (.chResetAll e) s = .next s1 ∧ hostRun 13 s1 = .next s2
      ∧ s2 = { s with tiles := s2.tiles, host := { s.host with
          eng := s.host.eng.set e (some { s.engine e with startBd := .replicate 4 0xFF }), result := some .ok } }
      ∧ (∀ u, u ≠ e → s2.tile u = s.tile u) ∧ SameMemory s s2
      ∧ s2.tile e = { s.tile e with
          ctrl := .replicate 4 ⟨0, true⟩, walker := .replicate 4 ⟨.idle, 0, none, .a, 0, false⟩ })

/-- O55. dma.initialize run to its end state (R284, R411), no other agent stepping. -/
def Obligations.InitializeRun : Prop :=
  ∀ (s : State) (e : TileId) (force : Nat), s.kind e = .ct →
    (2 ≤ force → exec (.dmaInitialize e force) s
      = .next { s with host := { s.host with result := some (.err .badFlag) } })
    ∧ (force = 0 → (s.engine e).ready = true →
      exec (.dmaInitialize e force) s = .next { s with host := { s.host with result := some .ok } })
    ∧ (force < 2 → force = 1 ∨ (s.engine e).ready = false → s.Clean → s.params.IsMap →
      (s.layout e).ChannelFits →
      ∃ s1 s2, exec (.dmaInitialize e force) s = .next s1 ∧ hostRun 18 s1 = .next s2
        ∧ s2 = { s with tiles := s2.tiles, host := { s.host with
            eng := s.host.eng.set e (some ⟨true, .replicate 4 0xFF, .replicate 16 .cleared⟩), result := some .ok } }
        ∧ (∀ u, u ≠ e → s2.tile u = s.tile u) ∧ SameMemory s s2
        ∧ s2.tile e = { s.tile e with
            ctrl := .replicate 4 ⟨0, true⟩, walker := .replicate 4 ⟨.idle, 0, none, .a, 0, false⟩ })

/-- O56. ss.portId (R306), ss.mstrPktConfig (R344) and the reference port tables (R305). -/
def Obligations.PureSwitchCommands : Prop :=
  (∀ (s : State) (k : TileKind) (d : PortDir) (c : PortClass) (i : Nat),
    let ret := fun r => { s with host := { s.host with result := some r } }
    let ports := (s.params.ports k d).range c
    (i < ports.count → exec (.ssPortId k d c i) s = .next (ret (.value (ports.first + i))))
    ∧ (ports.count ≤ i → exec (.ssPortId k d c i) s = .next (ret (.err .badPort))))
  ∧ (∀ (s : State) (drop mask arb : Nat),
    let ret := fun r => { s with host := { s.host with result := some r } }
    (2 ≤ drop → exec (.ssMstrPktConfig drop mask arb) s = .next (ret (.err .badFlag)))
    ∧ (drop < 2 → ¬ (mask < 16 ∧ arb < 8) → exec (.ssMstrPktConfig drop mask arb) s = .next (ret (.err .fieldTooWide)))
    ∧ (drop < 2 → mask < 16 → arb < 8 →
        exec (.ssMstrPktConfig drop mask arb) s = .next (ret (.value (128 * drop + 8 * mask + arb)))))
  ∧ (∀ (q : Config.Params), q.ReferenceMap → ∀ k d,
    let table := (if k = .ct
      then if d = .master
        then [(.core, 2, 0), (.dma, 2, 2), (.ctrl, 1, 4), (.fifo, 2, 5), (.south, 4, 7), (.west, 4, 11), (.north, 6, 15),
          (.east, 4, 21)]
        else [(.core, 2, 0), (.dma, 2, 2), (.ctrl, 1, 4), (.fifo, 2, 5), (.south, 6, 7), (.west, 4, 13), (.north, 4, 17),
          (.east, 4, 21), (.trace, 2, 25)]
      else if d = .master
        then [(.ctrl, 1, 0), (.fifo, 2, 1), (.south, 6, 3), (.west, 4, 9), (.north, 6, 13), (.east, 4, 19)]
        else [(.ctrl, 1, 0), (.fifo, 2, 1), (.south, 8, 3), (.west, 4, 11), (.north, 4, 15), (.east, 4, 19),
          (.trace, 1, 23)] : List (PortClass × Nat × Nat))
    (∀ r ∈ table, (q.ports k d).range r.1 = ⟨r.2.1, r.2.2⟩)
    ∧ (∀ c, (∀ r ∈ table, r.1 ≠ c) → ((q.ports k d).range c).count = 0)
    ∧ q.nMasters k = (if k = .ct then 25 else 23) ∧ q.nSlaves k = if k = .ct then 27 else 24)
  ∧ mstrPktConfigWord 1 4 5 = 0xA5

/-- O57. The switch commands (R307 to R309, R343). -/
def Obligations.SwitchCommands : Prop :=
  ∀ (s : State) (t : TileId) (cls : PortClass) (i : Nat),
    let L := s.layout t
    let id := fun d c j => portId s.params (s.kind t) d c j
    let err := fun r => { s with host := { s.host with result := some (.err r) } }
    let begun := fun ops => { s with host := { s.host with queue := ops ++ .ret .ok :: s.host.queue, result := none } }
    let wr : Nat → Word → HostOp := fun o v => .bus t 32 true o v
    let mword : Nat → Nat → Word := fun pktEn cfg => setField 1 L.mcfgEnable 1 ||| setField pktEn L.mcfgPacket 1
      ||| setField (cfg / 128) L.mcfgDrop 1 ||| setField cfg L.mcfgConfig 7
    let sword : Nat → Word := fun pktEn => setField 1 L.scfgEnable 1 ||| setField pktEn L.scfgPacket 1
    let kword : Nat → Nat → Nat → Nat → Word := fun sid mask msel arb => setField sid L.slotId 5
      ||| setField mask L.slotMask 5 ||| setField 1 L.slotEnable 1 ||| setField msel L.slotMsel 2 ||| setField arb L.slotArb 3
    (∀ en pktEn cfg, let x := exec (.ssConfigureMaster t cls i en pktEn cfg) s
      (id .master cls i = none → x = .next (err .badPort))
      ∧ ∀ m, id .master cls i = some m →
        (¬ (en < 2 ∧ pktEn < 2) → x = .next (err .badFlag))
        ∧ (en < 2 → pktEn < 2 → 256 ≤ cfg → x = .next (err .fieldTooWide))
        ∧ (en < 2 → pktEn < 2 → cfg < 256 →
          x = .next (begun [wr (L.mcfgBase + L.mcfgStride * m) (if en = 0 then 0 else mword pktEn cfg)])))
    ∧ (∀ en pktEn, let x := exec (.ssConfigureSlave t cls i en pktEn) s
      (id .slave cls i = none → x = .next (err .badPort))
      ∧ ∀ p, id .slave cls i = some p →
        (¬ (en < 2 ∧ pktEn < 2) → x = .next (err .badFlag))
        ∧ (en < 2 → pktEn < 2 →
          x = .next (begun [wr (L.scfgBase + L.scfgStride * p) (if en = 0 then 0 else sword pktEn)])))
    ∧ (∀ k en sid mask msel arb, let x := exec (.ssConfigureSlot t cls i k en sid mask msel arb) s
      let fit := sid < 32 ∧ mask < 32 ∧ msel < 4 ∧ arb < 8
      (id .slave cls i = none → x = .next (err .badPort))
      ∧ ∀ p, id .slave cls i = some p →
        (4 ≤ k → x = .next (err .badSlotIndex))
        ∧ (k < 4 → 2 ≤ en → x = .next (err .badFlag))
        ∧ (k < 4 → en < 2 → ¬ fit → x = .next (err .fieldTooWide))
        ∧ (k < 4 → en < 2 → fit → x = .next (begun [wr (L.slotBase + L.slotStride * p + L.slotStep * k)
            (if en = 0 then 0 else kword sid mask msel arb)])))
    ∧ (∀ mcls mi enSlave, let x := exec (.ssConnectCircuit t cls i mcls mi enSlave) s
      (id .slave cls i = none ∨ id .master mcls mi = none → x = .next (err .badPort))
      ∧ ∀ p m, id .slave cls i = some p → id .master mcls mi = some m →
        (2 ≤ enSlave → x = .next (err .badFlag))
        ∧ (enSlave < 2 → p < 256 → x = .next (begun (wr (L.mcfgBase + L.mcfgStride * m) (mword 0 p) ::
            if enSlave = 1 then [wr (L.scfgBase + L.scfgStride * p) (sword 0)] else []))))
    ∧ (L = .reference (s.kind t) → L.mcfgBase = 0x3F000 ∧ L.mcfgStride = 4 ∧ L.scfgBase = 0x3F100 ∧ L.scfgStride = 4
      ∧ L.slotBase = 0x3F200 ∧ L.slotStride = 0x10 ∧ L.slotStep = 4
      ∧ (∀ pktEn cfg, pktEn < 2 → cfg < 256 → (mword pktEn cfg).toNat = 0x80000000 + pktEn * 2 ^ 30 + cfg)
      ∧ (∀ pktEn, pktEn < 2 → (sword pktEn).toNat = 0x80000000 + pktEn * 2 ^ 30)
      ∧ ∀ sid mask msel arb, sid < 32 → mask < 32 → msel < 4 → arb < 8 →
        (kword sid mask msel arb).toNat = sid * 2 ^ 24 + mask * 2 ^ 16 + 2 ^ 8 + msel * 2 ^ 4 + arb)

/-- O58. setField and getField (R110, R111). -/
def Obligations.FieldCodec : Prop :=
  ∀ (lsb w : Nat), lsb + w ≤ 32 →
    (∀ v, (setField v lsb w).toNat = v % 2 ^ w * 2 ^ lsb)
    ∧ (∀ x : Word, (getField x lsb w).toNat = x.toNat / 2 ^ lsb % 2 ^ w)
    ∧ (∀ v, v < 2 ^ w → (getField (setField v lsb w) lsb w).toNat = v)
    ∧ ∀ v v' lsb' w', v < 2 ^ w → v' < 2 ^ w' → lsb' + w' ≤ 32 → (lsb + w ≤ lsb' ∨ lsb' + w' ≤ lsb) →
        (getField (setField v lsb w ||| setField v' lsb' w') lsb w).toNat = v
        ∧ (getField (setField v lsb w ||| setField v' lsb' w') lsb' w').toNat = v'

/-- O59. Packing (R202), unpacking (R206) with the field table of R120 to R126, and the cleared BD (R205). -/
def Obligations.UnpackPack : Prop :=
  (∀ (L : Config.BdLayout) (b : MirrorBd),
    (L.Fits → unpackBd L (packBd L b) = ⟨b.fields, true, if b.fields.nextEn then BitVec.ofNat 4 b.nextBd.toNat else 0⟩)
    ∧ ∀ k : BdWordIx, (packBd L b)[k] &&& ~~~bdMask L k = 0)
  ∧ Config.BdLayout.reference.Fits
  ∧ (∀ w : Vector Word 7,
    let slot := fun (x : Word) => (⟨getField x 22 4, x.getLsbD 21, x.getLsbD 20, x.getLsbD 19, x.getLsbD 18, x.getLsbD 17,
      x.getLsbD 16, getField x 0 13⟩ : SlotFields)
    unpackBd .reference w = {
      fields := {
        a := slot w[0], b := slot w[1]
        xIncr := getField w[2] 24 8, xWrap := getField w[2] 16 8, xOff := getField w[2] 0 13
        yIncr := getField w[3] 24 8, yWrap := getField w[3] 16 8, yOff := getField w[3] 0 13
        pktType := getField w[4] 12 5, pktId := getField w[4] 0 5
        intlvWhich := w[5].getLsbD 8, intlvCur := getField w[5] 0 8
        abMode := w[6].getLsbD 30, fifoMode := getField w[6] 28 2, pktEn := w[6].getLsbD 27, intlvEn := w[6].getLsbD 26
        intlvCnt := getField w[6] 18 8, nextEn := w[6].getLsbD 17, length := getField w[6] 0 13 }
      valid := w[6].getLsbD 31, nextBd := getField w[6] 13 4 })
  ∧ packBd .reference .cleared = #v[0, 0, 0x00FF0001, 0xFFFF0100, 0, 0, 0x80000000]

/-- O60. The laws of the parameters addrGen2D (R271) and mkHeader, hdrId (R351); the free instantiations are log 22. -/
def Obligations.ParameterLaws : Prop :=
  (∀ m base k, k < 8192 → addrGen2D m ⟨base, 0, 255, 1, 255, 255, 256⟩ k = base + k)
  ∧ (∀ type id, hdrId .reference (mkHeader .reference type id) = id)
  ∧ (∀ words : Vector (Vector Word 32) 32,
      (∀ t t' i i' : Fin 32, words[t][i] = words[t'][i'] → i = i') →
      (∀ type id, hdrId (.given words) (mkHeader (.given words) type id) = id)
      ∧ ∀ type id : BitVec 5, mkHeader (.given words) type id = words[type.toFin][id.toFin])
  ∧ (∀ b xI xW xO yI yW yO k, addrGen2D .reference ⟨b, xI, xW, xO, yI, yW, yO⟩ k
      = b + (k / (xI + 1) % (xW + 1)) * xO + (k / (yI + 1) % (yW + 1)) * yO)
  ∧ (∀ type id : BitVec 5, (mkHeader .reference type id).toNat = type.toNat * 2 ^ 12 + id.toNat)
  ∧ ∀ h : Word, (hdrId .reference h).toNat = h.toNat % 32
end

