-- ==== Sys2Proof/Laws/Decode.lean ====
section
/-! SUPPORT. The decoder on the raw forms the encoder writes: under an address map the offset of a register selects that
register, the reference layout is an address map, and the names of written arguments. -/

namespace Sys2Proof

open Config (Params)

/-- An aligned read is the row its offset selects (R101). -/
theorem decode_busRd {q : Params} {kind : TileId → TileKind} {t : TileId} {o : Nat} {i : Instr} (h4 : o % 4 = 0)
    (hd : decodeOff q (kind t) t false o 0 = some i) : decode q kind (busRd t o) = .ok i := by
  unfold decode busRd
  simp only [h4, hd, ne_eq, not_true_eq_false, or_self, if_false]

/-- An aligned write is the row its offset selects (R101). -/
theorem decode_busWr {q : Params} {kind : TileId → TileKind} {t : TileId} {o : Nat} {v : Word} {i : Instr} (h4 : o % 4 = 0)
    (hd : decodeOff q (kind t) t true o v = some i) : decode q kind (busWr t o v) = .ok i := by
  unfold decode busWr
  simp only [h4, hd, ne_eq, not_true_eq_false, or_self, if_false]

/-! ### Offsets (R101, R103) -/

/-- The lock whose region holds an offset holds it at a place below the stride (R103). -/
theorem lockAt_some {L : Config.Layout} {o : Nat} {l : LockIx} (h : lockAt L o = some l) :
    ∃ op, op < L.lockStride ∧ o = lockRegionOff L l op ∧ o - lockRegionOff L l 0 = op := by
  have := List.find?_some h
  simp only [Bool.and_eq_true, decide_eq_true_eq] at this
  exact ⟨o - lockRegionOff L l 0, by omega, by simp only [lockRegionOff] at *; omega, rfl⟩

/-- An offset inside a lock's region has a lock (R103). -/
theorem lockAt_region {L : Config.Layout} {l : LockIx} {op : Nat} (h : op < L.lockStride) :
    lockAt L (lockRegionOff L l op) ≠ none := by
  unfold lockAt
  rw [Ne, List.find?_eq_none]
  intro hn
  have h1 : lockRegionOff L l 0 ≤ lockRegionOff L l op ∧ lockRegionOff L l op < lockRegionOff L l 0 + L.lockStride := by
    simp only [lockRegionOff]; omega
  exact hn l (List.mem_finRange l) (by rw [decide_eq_true h1.1, decide_eq_true h1.2]; rfl)

/-- A register in the list of a tile's registers is one the tile has. -/
theorem mapped_of_mem_plainRegs {q : Params} {k : TileKind} {r : Reg} (h : r ∈ plainRegs q k) : Reg.mapped q k r = true := by
  simp only [plainRegs, portsBelow, List.mem_append, List.mem_flatMap, List.mem_map, List.mem_filter, List.mem_finRange,
    true_and, decide_eq_true_eq] at h
  rcases h with ((h | ⟨m, hm, rfl⟩) | ⟨m, hm, rfl⟩) | ⟨m, hm, j, rfl⟩
  · split at h
    · subst k
      simp only [List.mem_append, List.mem_flatMap, List.mem_map, List.mem_finRange, true_and] at h
      rcases h with ((⟨_, _, rfl⟩ | ⟨_, rfl⟩) | ⟨_, rfl⟩) | ⟨_, rfl⟩ <;> rfl
    · cases h
  all_goals exact decide_eq_true hm

/-- A register of the tile, not a data-memory word and not a lock request, is in the list of its registers. -/
theorem mem_plainRegs {q : Params} {k : TileKind} {r : Reg} (h : Reg.mapped q k r = true) :
    (∃ wa, r = .dm wa) ∨ (∃ l op, r = .lock l op) ∨ r ∈ plainRegs q k := by
  simp only [plainRegs, portsBelow, List.mem_append, List.mem_flatMap, List.mem_map, List.mem_filter, List.mem_finRange,
    true_and, decide_eq_true_eq]
  cases r <;> simp_all [Reg.mapped]

/-- Under an address map the offset of a register selects that register and no other (R101, R103). -/
theorem regAt_off {q : Params} (hq : q.IsMap) {k : TileKind} {r : Reg} (h : Reg.mapped q k r = true) :
    regAt q k (r.off (q.layout k)) = some r := by
  have key : ∀ r', Reg.mapped q k r' = true → r'.off (q.layout k) = r.off (q.layout k) → r' = r :=
    fun r' h' e => hq.apart k r' r h' h e
  unfold regAt
  simp only
  split
  · rename_i hd
    obtain ⟨rfl, h1, h2, h3⟩ := hd
    congr 1
    exact key (.dm _) (by simp [Reg.mapped, h3]) (by simp only [Reg.off, dmOff] at *; omega)
  · rename_i hd
    split
    · rename_i l hl
      obtain ⟨op, hop, ho, he⟩ := lockAt_some hl
      congr 1
      rw [he]
      exact key (.lock l op) (decide_eq_true hop) ho.symm
    · rename_i hl
      have hm : r ∈ plainRegs q k := by
        rcases mem_plainRegs h with ⟨wa, rfl⟩ | ⟨l, op, rfl⟩ | hm
        · simp only [Reg.mapped, Bool.and_eq_true, beq_iff_eq, decide_eq_true_eq] at h
          refine absurd ⟨h.1, ?_, ?_, ?_⟩ hd <;> simp only [Reg.off, dmOff] <;> omega
        · exact absurd hl (lockAt_region (by simpa [Reg.mapped] using h))
        · exact hm
      have hs : ((plainRegs q k).find? fun r' => r'.off (q.layout k) == r.off (q.layout k)).isSome = true :=
        List.find?_isSome.2 ⟨r, hm, by simp⟩
      obtain ⟨r', hf⟩ := Option.isSome_iff_exists.1 hs
      rw [hf, key r' (mapped_of_mem_plainRegs (List.mem_of_find?_eq_some hf)) (by simpa using List.find?_some hf)]

/-- The kind of a request at its sub-offset (R103). -/
theorem lockKindOf_lockOp {q : Params} (hq : q.IsMap) (k : TileKind) (a : LockKind) :
    lockKindOf (q.layout k) (lockOp (q.layout k) a) = some a := by
  have hm : a ∈ lockKinds := by
    cases a with
    | acqV v => cases v <;> simp [lockKinds]
    | relV v => cases v <;> simp [lockKinds]
    | _ => simp [lockKinds]
  unfold lockKindOf
  rcases hf : lockKinds.find? fun b => lockOp (q.layout k) b == lockOp (q.layout k) a with _ | b
  · rw [List.find?_eq_none] at hf
    exact absurd (hf a hm) (by simp)
  · refine congrArg some ?_
    exact hq.lockOpsApart k b a (by simpa using List.find?_some hf)

/-! ### The reference layout is an address map (R103, R305) -/

/-- The port counts of the reference tables (R305). -/
theorem reference_ports (k : TileKind) :
    Params.reference.nMasters k = (match k with | .ct => 25 | .bt => 23)
      ∧ Params.reference.nSlaves k = (match k with | .ct => 27 | .bt => 24) := by
  cases k <;> decide

/-- A register's offset in `L_REF` (R103). -/
theorem reference_off (k : TileKind) (r : Reg) : r.off (Params.reference.layout k) =
    match r with
    | .dm wa => 4 * wa
    | .bd n j => 0x1D000 + 0x20 * n.val + 4 * j.val
    | .ctrl c => 0x1DE00 + 8 * c.val
    | .startBd c => 0x1DE04 + 8 * c.val
    | .status i => 0x1DF00 + 0x10 * i.val
    | .lock l op => (match k with | .ct => 0x1E000 | .bt => 0x14000) + 0x80 * l.val + op
    | .mcfg m => 0x3F000 + 4 * m.val
    | .scfg p => 0x3F100 + 4 * p.val
    | .slot p j => 0x3F200 + 0x10 * p.val + 4 * j.val := by
  cases k <;> cases r with
    | dm wa => exact Nat.zero_add _
    | status i => revert i; decide
    | _ => rfl

/-- The registers a tile of the reference port tables has (R305). -/
theorem reference_mapped (k : TileKind) (r : Reg) : Reg.mapped Params.reference k r = true ↔
    match r with
    | .dm wa => k = .ct ∧ wa < 8192
    | .lock _ op => op < 0x80
    | .mcfg m => m.val < (match k with | .ct => 25 | .bt => 23)
    | .scfg p => p.val < (match k with | .ct => 27 | .bt => 24)
    | .slot p _ => p.val < (match k with | .ct => 27 | .bt => 24)
    | _ => k = .ct := by
  have hp := reference_ports k
  cases r <;> simp only [Reg.mapped, hp.1, hp.2, Bool.and_eq_true, beq_iff_eq, decide_eq_true_eq] <;> cases k <;> exact Iff.rfl

/-- `L_REF` with the reference port tables is an address map (R33, R103). -/
theorem reference_isMap : Params.reference.IsMap where
  inside k r h := by
    show _ < 262144
    rw [reference_mapped] at h
    rw [reference_off]
    cases k <;> cases r <;> simp at h ⊢ <;> omega
  aligned k r h hl := by
    rw [reference_mapped] at h
    rw [reference_off]
    cases k <;> cases r <;> simp at h hl ⊢ <;> omega
  apart k r r' h h' e := by
    rw [reference_mapped] at h h'
    rw [reference_off, reference_off] at e
    cases k <;> cases r <;> simp only [reduceCtorEq, true_and, false_and] at h <;>
      cases r' <;> simp only [reduceCtorEq, true_and, false_and] at h' <;>
      simp only [Reg.dm.injEq, Reg.bd.injEq, Reg.ctrl.injEq, Reg.startBd.injEq, Reg.status.injEq, Reg.lock.injEq,
        Reg.mcfg.injEq, Reg.scfg.injEq, Reg.slot.injEq, reduceCtorEq, Fin.ext_iff] at e ⊢ <;> omega
  lockOps k a := by
    cases k <;> cases a <;> (try rename_i v; cases v) <;> decide
  lockOpsApart k a b := by
    cases k <;> rcases a with _ | (_ | _) | _ | (_ | _) <;> rcases b with _ | (_ | _) | _ | (_ | _) <;> decide

/-! ### Names of arguments (R146) -/

@[simp] theorem slotArgOf_name (x : SlotArg) : slotArgOf (slotArgName x) = x := by cases x <;> decide
@[simp] theorem axisArgOf_name (x : AxisArg) : axisArgOf (axisArgName x) = x := by cases x <;> decide
@[simp] theorem valArgOf_tok (x : ValArg) : valArgOf (valArgTok x) = some x := by cases x <;> rfl
@[simp] theorem classOf_name (x : PortClass) : classOf (className x) = some x := by cases x <;> decide
@[simp] theorem kindOf_name (x : TileKind) : kindOf (kindName x) = some x := by cases x <;> decide
@[simp] theorem dirOf_name (x : PortDir) : dirOf (dirName x) = some x := by cases x <;> decide

end Sys2Proof
end

