-- ==== Sys2Proof/Laws/State.lean ====
section
/-! SUPPORT. Field lemmas: what each field is after each update of the state and of a tile (one per field, by `rfl`), and
which tile an update touches. -/

namespace Sys2Proof.Machine

/-! ### Tiles -/

@[simp] theorem State.setTile_tile_same (s : State) (t : TileId) (T : Tile) : (s.setTile t T).tile t = T := by
  simp [State.setTile, State.tile]

@[simp] theorem State.setTile_tile_ne (s : State) (t u : TileId) (T : Tile) (h : u ≠ t) :
    (s.setTile t T).tile u = s.tile u := by
  have h' : t.val ≠ u.val := fun e => h (Fin.ext e.symm)
  simp [State.setTile, State.tile, h']

theorem State.setTile_tile (s : State) (t u : TileId) (T : Tile) :
    (s.setTile t T).tile u = if u = t then T else s.tile u := by
  by_cases h : u = t
  · subst h; simp
  · simp [h]

@[simp] theorem State.modTile_tile_same (s : State) (t : TileId) (f : Tile → Tile) :
    (s.modTile t f).tile t = f (s.tile t) := State.setTile_tile_same _ _ _

@[simp] theorem State.modTile_tile_ne (s : State) (t u : TileId) (f : Tile → Tile) (h : u ≠ t) :
    (s.modTile t f).tile u = s.tile u := State.setTile_tile_ne _ _ _ _ h

theorem State.modTile_tile (s : State) (t u : TileId) (f : Tile → Tile) :
    (s.modTile t f).tile u = if u = t then f (s.tile u) else s.tile u := by
  by_cases h : u = t
  · subst h; simp
  · simp [h]


/-! ### `State.setTile` -/

theorem State.setTile_tiles (s : State) (t : TileId) (T : Tile) : (s.setTile t T).tiles = s.tiles.set t T := rfl
@[simp] theorem State.setTile_host (s : State) (t : TileId) (T : Tile) : (s.setTile t T).host = s.host := rfl
@[simp] theorem State.setTile_faults (s : State) (t : TileId) (T : Tile) : (s.setTile t T).faults = s.faults := rfl
@[simp] theorem State.setTile_refusal (s : State) (t : TileId) (T : Tile) : (s.setTile t T).refusal = s.refusal := rfl
@[simp] theorem State.setTile_pending (s : State) (t : TileId) (T : Tile) : (s.setTile t T).pending = s.pending := rfl
@[simp] theorem State.setTile_writes (s : State) (t : TileId) (T : Tile) : (s.setTile t T).writes = s.writes := rfl
@[simp] theorem State.setTile_params (s : State) (t : TileId) (T : Tile) : (s.setTile t T).params = s.params := rfl
@[simp] theorem State.setTile_turns (s : State) (t : TileId) (T : Tile) : (s.setTile t T).turns = s.turns := rfl
@[simp] theorem State.setTile_draws (s : State) (t : TileId) (T : Tile) : (s.setTile t T).draws = s.draws := rfl
@[simp] theorem State.setTile_engine (s : State) (t : TileId) (T : Tile) (e : TileId) : (s.setTile t T).engine e = s.engine e := rfl

/-! ### `State.modTile` -/

theorem State.modTile_tiles (s : State) (t : TileId) (f : Tile → Tile) : (s.modTile t f).tiles = s.tiles.set t (f (s.tile t)) := rfl
@[simp] theorem State.modTile_host (s : State) (t : TileId) (f : Tile → Tile) : (s.modTile t f).host = s.host := rfl
@[simp] theorem State.modTile_faults (s : State) (t : TileId) (f : Tile → Tile) : (s.modTile t f).faults = s.faults := rfl
@[simp] theorem State.modTile_refusal (s : State) (t : TileId) (f : Tile → Tile) : (s.modTile t f).refusal = s.refusal := rfl
@[simp] theorem State.modTile_pending (s : State) (t : TileId) (f : Tile → Tile) : (s.modTile t f).pending = s.pending := rfl
@[simp] theorem State.modTile_writes (s : State) (t : TileId) (f : Tile → Tile) : (s.modTile t f).writes = s.writes := rfl
@[simp] theorem State.modTile_params (s : State) (t : TileId) (f : Tile → Tile) : (s.modTile t f).params = s.params := rfl
@[simp] theorem State.modTile_turns (s : State) (t : TileId) (f : Tile → Tile) : (s.modTile t f).turns = s.turns := rfl
@[simp] theorem State.modTile_draws (s : State) (t : TileId) (f : Tile → Tile) : (s.modTile t f).draws = s.draws := rfl
@[simp] theorem State.modTile_engine (s : State) (t : TileId) (f : Tile → Tile) (e : TileId) : (s.modTile t f).engine e = s.engine e := rfl

/-! ### `State.raise` -/

@[simp] theorem State.raise_tiles (s : State) (f : Fault) : (s.raise f).tiles = s.tiles := rfl
@[simp] theorem State.raise_host (s : State) (f : Fault) : (s.raise f).host = s.host := rfl
@[simp] theorem State.raise_faults (s : State) (f : Fault) : (s.raise f).faults = s.faults ++ [f] := rfl
@[simp] theorem State.raise_refusal (s : State) (f : Fault) : (s.raise f).refusal = s.refusal := rfl
@[simp] theorem State.raise_pending (s : State) (f : Fault) : (s.raise f).pending = s.pending := rfl
@[simp] theorem State.raise_writes (s : State) (f : Fault) : (s.raise f).writes = s.writes := rfl
@[simp] theorem State.raise_params (s : State) (f : Fault) : (s.raise f).params = s.params := rfl
@[simp] theorem State.raise_turns (s : State) (f : Fault) : (s.raise f).turns = s.turns := rfl
@[simp] theorem State.raise_draws (s : State) (f : Fault) : (s.raise f).draws = s.draws := rfl
@[simp] theorem State.raise_tile (s : State) (f : Fault) (u : TileId) : (s.raise f).tile u = s.tile u := rfl
@[simp] theorem State.raise_kind (s : State) (f : Fault) (u : TileId) : (s.raise f).kind u = s.kind u := rfl
@[simp] theorem State.raise_layout (s : State) (f : Fault) (u : TileId) : (s.raise f).layout u = s.layout u := rfl
@[simp] theorem State.raise_engine (s : State) (f : Fault) (e : TileId) : (s.raise f).engine e = s.engine e := rfl

/-! ### `State.raiseNext` -/

@[simp] theorem State.raiseNext_tiles (s : State) (f : Fault) : (s.raiseNext f).tiles = s.tiles := rfl
@[simp] theorem State.raiseNext_host (s : State) (f : Fault) : (s.raiseNext f).host = s.host := rfl
@[simp] theorem State.raiseNext_faults (s : State) (f : Fault) : (s.raiseNext f).faults = s.faults := rfl
@[simp] theorem State.raiseNext_refusal (s : State) (f : Fault) : (s.raiseNext f).refusal = s.refusal := rfl
@[simp] theorem State.raiseNext_pending (s : State) (f : Fault) : (s.raiseNext f).pending = some f := rfl
@[simp] theorem State.raiseNext_writes (s : State) (f : Fault) : (s.raiseNext f).writes = s.writes := rfl
@[simp] theorem State.raiseNext_params (s : State) (f : Fault) : (s.raiseNext f).params = s.params := rfl
@[simp] theorem State.raiseNext_turns (s : State) (f : Fault) : (s.raiseNext f).turns = s.turns := rfl
@[simp] theorem State.raiseNext_draws (s : State) (f : Fault) : (s.raiseNext f).draws = s.draws := rfl
@[simp] theorem State.raiseNext_tile (s : State) (f : Fault) (u : TileId) : (s.raiseNext f).tile u = s.tile u := rfl
@[simp] theorem State.raiseNext_kind (s : State) (f : Fault) (u : TileId) : (s.raiseNext f).kind u = s.kind u := rfl
@[simp] theorem State.raiseNext_layout (s : State) (f : Fault) (u : TileId) : (s.raiseNext f).layout u = s.layout u := rfl
@[simp] theorem State.raiseNext_engine (s : State) (f : Fault) (e : TileId) : (s.raiseNext f).engine e = s.engine e := rfl

/-! ### `State.refuse` -/

@[simp] theorem State.refuse_tiles (s : State) (r : Refusal) : (s.refuse r).tiles = s.tiles := rfl
@[simp] theorem State.refuse_host (s : State) (r : Refusal) : (s.refuse r).host = s.host := rfl
@[simp] theorem State.refuse_faults (s : State) (r : Refusal) : (s.refuse r).faults = s.faults := rfl
@[simp] theorem State.refuse_refusal (s : State) (r : Refusal) : (s.refuse r).refusal = some r := rfl
@[simp] theorem State.refuse_pending (s : State) (r : Refusal) : (s.refuse r).pending = s.pending := rfl
@[simp] theorem State.refuse_writes (s : State) (r : Refusal) : (s.refuse r).writes = s.writes := rfl
@[simp] theorem State.refuse_params (s : State) (r : Refusal) : (s.refuse r).params = s.params := rfl
@[simp] theorem State.refuse_turns (s : State) (r : Refusal) : (s.refuse r).turns = s.turns := rfl
@[simp] theorem State.refuse_draws (s : State) (r : Refusal) : (s.refuse r).draws = s.draws := rfl
@[simp] theorem State.refuse_tile (s : State) (r : Refusal) (u : TileId) : (s.refuse r).tile u = s.tile u := rfl
@[simp] theorem State.refuse_kind (s : State) (r : Refusal) (u : TileId) : (s.refuse r).kind u = s.kind u := rfl
@[simp] theorem State.refuse_layout (s : State) (r : Refusal) (u : TileId) : (s.refuse r).layout u = s.layout u := rfl
@[simp] theorem State.refuse_engine (s : State) (r : Refusal) (e : TileId) : (s.refuse r).engine e = s.engine e := rfl

/-! ### `State.drew` -/

@[simp] theorem State.drew_tiles (s : State) (n : Nat) : (s.drew n).tiles = s.tiles := rfl
@[simp] theorem State.drew_host (s : State) (n : Nat) : (s.drew n).host = s.host := rfl
@[simp] theorem State.drew_faults (s : State) (n : Nat) : (s.drew n).faults = s.faults := rfl
@[simp] theorem State.drew_refusal (s : State) (n : Nat) : (s.drew n).refusal = s.refusal := rfl
@[simp] theorem State.drew_pending (s : State) (n : Nat) : (s.drew n).pending = s.pending := rfl
@[simp] theorem State.drew_writes (s : State) (n : Nat) : (s.drew n).writes = s.writes := rfl
@[simp] theorem State.drew_params (s : State) (n : Nat) : (s.drew n).params = s.params := rfl
@[simp] theorem State.drew_turns (s : State) (n : Nat) : (s.drew n).turns = s.turns := rfl
@[simp] theorem State.drew_draws (s : State) (n : Nat) : (s.drew n).draws = s.draws + n := rfl
@[simp] theorem State.drew_tile (s : State) (n : Nat) (u : TileId) : (s.drew n).tile u = s.tile u := rfl
@[simp] theorem State.drew_kind (s : State) (n : Nat) (u : TileId) : (s.drew n).kind u = s.kind u := rfl
@[simp] theorem State.drew_layout (s : State) (n : Nat) (u : TileId) : (s.drew n).layout u = s.layout u := rfl
@[simp] theorem State.drew_engine (s : State) (n : Nat) (e : TileId) : (s.drew n).engine e = s.engine e := rfl

/-! ### `State.hostReads` -/

@[simp] theorem State.hostReads_tiles (s : State) (w : Word) : (s.hostReads w).tiles = s.tiles := rfl
@[simp] theorem State.hostReads_host (s : State) (w : Word) : (s.hostReads w).host = { s.host with readData := w } := rfl
@[simp] theorem State.hostReads_faults (s : State) (w : Word) : (s.hostReads w).faults = s.faults := rfl
@[simp] theorem State.hostReads_refusal (s : State) (w : Word) : (s.hostReads w).refusal = s.refusal := rfl
@[simp] theorem State.hostReads_pending (s : State) (w : Word) : (s.hostReads w).pending = s.pending := rfl
@[simp] theorem State.hostReads_writes (s : State) (w : Word) : (s.hostReads w).writes = s.writes := rfl
@[simp] theorem State.hostReads_params (s : State) (w : Word) : (s.hostReads w).params = s.params := rfl
@[simp] theorem State.hostReads_turns (s : State) (w : Word) : (s.hostReads w).turns = s.turns := rfl
@[simp] theorem State.hostReads_draws (s : State) (w : Word) : (s.hostReads w).draws = s.draws := rfl
@[simp] theorem State.hostReads_tile (s : State) (w : Word) (u : TileId) : (s.hostReads w).tile u = s.tile u := rfl
@[simp] theorem State.hostReads_kind (s : State) (w : Word) (u : TileId) : (s.hostReads w).kind u = s.kind u := rfl
@[simp] theorem State.hostReads_layout (s : State) (w : Word) (u : TileId) : (s.hostReads w).layout u = s.layout u := rfl

/-! ### `State.ret` -/

@[simp] theorem State.ret_tiles (s : State) (r : CmdResult) : (s.ret r).tiles = s.tiles := rfl
@[simp] theorem State.ret_host (s : State) (r : CmdResult) : (s.ret r).host = { s.host with result := some r } := rfl
@[simp] theorem State.ret_faults (s : State) (r : CmdResult) : (s.ret r).faults = s.faults := rfl
@[simp] theorem State.ret_refusal (s : State) (r : CmdResult) : (s.ret r).refusal = s.refusal := rfl
@[simp] theorem State.ret_pending (s : State) (r : CmdResult) : (s.ret r).pending = s.pending := rfl
@[simp] theorem State.ret_writes (s : State) (r : CmdResult) : (s.ret r).writes = s.writes := rfl
@[simp] theorem State.ret_params (s : State) (r : CmdResult) : (s.ret r).params = s.params := rfl
@[simp] theorem State.ret_turns (s : State) (r : CmdResult) : (s.ret r).turns = s.turns := rfl
@[simp] theorem State.ret_draws (s : State) (r : CmdResult) : (s.ret r).draws = s.draws := rfl
@[simp] theorem State.ret_tile (s : State) (r : CmdResult) (u : TileId) : (s.ret r).tile u = s.tile u := rfl
@[simp] theorem State.ret_kind (s : State) (r : CmdResult) (u : TileId) : (s.ret r).kind u = s.kind u := rfl
@[simp] theorem State.ret_layout (s : State) (r : CmdResult) (u : TileId) : (s.ret r).layout u = s.layout u := rfl

/-! ### `State.begin` -/

@[simp] theorem State.begin_tiles (s : State) (ops : List HostOp) : (s.begin ops).tiles = s.tiles := rfl
@[simp] theorem State.begin_host (s : State) (ops : List HostOp) : (s.begin ops).host = { s.host with queue := ops ++ s.host.queue, result := none } := rfl
@[simp] theorem State.begin_faults (s : State) (ops : List HostOp) : (s.begin ops).faults = s.faults := rfl
@[simp] theorem State.begin_refusal (s : State) (ops : List HostOp) : (s.begin ops).refusal = s.refusal := rfl
@[simp] theorem State.begin_pending (s : State) (ops : List HostOp) : (s.begin ops).pending = s.pending := rfl
@[simp] theorem State.begin_writes (s : State) (ops : List HostOp) : (s.begin ops).writes = s.writes := rfl
@[simp] theorem State.begin_params (s : State) (ops : List HostOp) : (s.begin ops).params = s.params := rfl
@[simp] theorem State.begin_turns (s : State) (ops : List HostOp) : (s.begin ops).turns = s.turns := rfl
@[simp] theorem State.begin_draws (s : State) (ops : List HostOp) : (s.begin ops).draws = s.draws := rfl
@[simp] theorem State.begin_tile (s : State) (ops : List HostOp) (u : TileId) : (s.begin ops).tile u = s.tile u := rfl
@[simp] theorem State.begin_kind (s : State) (ops : List HostOp) (u : TileId) : (s.begin ops).kind u = s.kind u := rfl
@[simp] theorem State.begin_layout (s : State) (ops : List HostOp) (u : TileId) : (s.begin ops).layout u = s.layout u := rfl

/-! ### `State.setQueue` -/

@[simp] theorem State.setQueue_tiles (s : State) (q : List HostOp) : (s.setQueue q).tiles = s.tiles := rfl
@[simp] theorem State.setQueue_host (s : State) (q : List HostOp) : (s.setQueue q).host = { s.host with queue := q } := rfl
@[simp] theorem State.setQueue_faults (s : State) (q : List HostOp) : (s.setQueue q).faults = s.faults := rfl
@[simp] theorem State.setQueue_refusal (s : State) (q : List HostOp) : (s.setQueue q).refusal = s.refusal := rfl
@[simp] theorem State.setQueue_pending (s : State) (q : List HostOp) : (s.setQueue q).pending = s.pending := rfl
@[simp] theorem State.setQueue_writes (s : State) (q : List HostOp) : (s.setQueue q).writes = s.writes := rfl
@[simp] theorem State.setQueue_params (s : State) (q : List HostOp) : (s.setQueue q).params = s.params := rfl
@[simp] theorem State.setQueue_turns (s : State) (q : List HostOp) : (s.setQueue q).turns = s.turns := rfl
@[simp] theorem State.setQueue_draws (s : State) (q : List HostOp) : (s.setQueue q).draws = s.draws := rfl
@[simp] theorem State.setQueue_tile (s : State) (q : List HostOp) (u : TileId) : (s.setQueue q).tile u = s.tile u := rfl
@[simp] theorem State.setQueue_kind (s : State) (q : List HostOp) (u : TileId) : (s.setQueue q).kind u = s.kind u := rfl
@[simp] theorem State.setQueue_layout (s : State) (q : List HostOp) (u : TileId) : (s.setQueue q).layout u = s.layout u := rfl

/-! ### `State.setEngine` -/

@[simp] theorem State.setEngine_tiles (s : State) (e : TileId) (g : Eng) : (s.setEngine e g).tiles = s.tiles := rfl
@[simp] theorem State.setEngine_host (s : State) (e : TileId) (g : Eng) : (s.setEngine e g).host = { s.host with eng := s.host.eng.set e (some g) } := rfl
@[simp] theorem State.setEngine_faults (s : State) (e : TileId) (g : Eng) : (s.setEngine e g).faults = s.faults := rfl
@[simp] theorem State.setEngine_refusal (s : State) (e : TileId) (g : Eng) : (s.setEngine e g).refusal = s.refusal := rfl
@[simp] theorem State.setEngine_pending (s : State) (e : TileId) (g : Eng) : (s.setEngine e g).pending = s.pending := rfl
@[simp] theorem State.setEngine_writes (s : State) (e : TileId) (g : Eng) : (s.setEngine e g).writes = s.writes := rfl
@[simp] theorem State.setEngine_params (s : State) (e : TileId) (g : Eng) : (s.setEngine e g).params = s.params := rfl
@[simp] theorem State.setEngine_turns (s : State) (e : TileId) (g : Eng) : (s.setEngine e g).turns = s.turns := rfl
@[simp] theorem State.setEngine_draws (s : State) (e : TileId) (g : Eng) : (s.setEngine e g).draws = s.draws := rfl
@[simp] theorem State.setEngine_tile (s : State) (e : TileId) (g : Eng) (u : TileId) : (s.setEngine e g).tile u = s.tile u := rfl
@[simp] theorem State.setEngine_kind (s : State) (e : TileId) (g : Eng) (u : TileId) : (s.setEngine e g).kind u = s.kind u := rfl
@[simp] theorem State.setEngine_layout (s : State) (e : TileId) (g : Eng) (u : TileId) : (s.setEngine e g).layout u = s.layout u := rfl

/-! ### `State.hostReadsReg` -/

@[simp] theorem State.hostReadsReg_tiles (s : State) (mask w : Word) : (s.hostReadsReg mask w).tiles = s.tiles := rfl
@[simp] theorem State.hostReadsReg_host (s : State) (mask w : Word) : (s.hostReadsReg mask w).host = { s.host with readData := readBack mask w s.draws } := rfl
@[simp] theorem State.hostReadsReg_faults (s : State) (mask w : Word) : (s.hostReadsReg mask w).faults = s.faults := rfl
@[simp] theorem State.hostReadsReg_refusal (s : State) (mask w : Word) : (s.hostReadsReg mask w).refusal = s.refusal := rfl
@[simp] theorem State.hostReadsReg_pending (s : State) (mask w : Word) : (s.hostReadsReg mask w).pending = s.pending := rfl
@[simp] theorem State.hostReadsReg_writes (s : State) (mask w : Word) : (s.hostReadsReg mask w).writes = s.writes := rfl
@[simp] theorem State.hostReadsReg_params (s : State) (mask w : Word) : (s.hostReadsReg mask w).params = s.params := rfl
@[simp] theorem State.hostReadsReg_turns (s : State) (mask w : Word) : (s.hostReadsReg mask w).turns = s.turns := rfl
@[simp] theorem State.hostReadsReg_draws (s : State) (mask w : Word) : (s.hostReadsReg mask w).draws = s.draws + if w &&& ~~~mask = 0 then 0 else 1 := rfl
@[simp] theorem State.hostReadsReg_tile (s : State) (mask w : Word) (u : TileId) : (s.hostReadsReg mask w).tile u = s.tile u := rfl
@[simp] theorem State.hostReadsReg_kind (s : State) (mask w : Word) (u : TileId) : (s.hostReadsReg mask w).kind u = s.kind u := rfl
@[simp] theorem State.hostReadsReg_layout (s : State) (mask w : Word) (u : TileId) : (s.hostReadsReg mask w).layout u = s.layout u := rfl

/-! ### `State.dmDrew` -/

@[simp] theorem State.dmDrew_tiles (s : State) (who : Agent) (t : TileId) (wa : Nat) : (s.dmDrew who t wa).tiles = s.tiles := rfl
@[simp] theorem State.dmDrew_host (s : State) (who : Agent) (t : TileId) (wa : Nat) : (s.dmDrew who t wa).host = s.host := rfl
@[simp] theorem State.dmDrew_faults (s : State) (who : Agent) (t : TileId) (wa : Nat) : (s.dmDrew who t wa).faults = s.faults := rfl
@[simp] theorem State.dmDrew_refusal (s : State) (who : Agent) (t : TileId) (wa : Nat) : (s.dmDrew who t wa).refusal = s.refusal := rfl
@[simp] theorem State.dmDrew_pending (s : State) (who : Agent) (t : TileId) (wa : Nat) : (s.dmDrew who t wa).pending = s.pending := rfl
@[simp] theorem State.dmDrew_writes (s : State) (who : Agent) (t : TileId) (wa : Nat) : (s.dmDrew who t wa).writes = s.writes := rfl
@[simp] theorem State.dmDrew_params (s : State) (who : Agent) (t : TileId) (wa : Nat) : (s.dmDrew who t wa).params = s.params := rfl
@[simp] theorem State.dmDrew_turns (s : State) (who : Agent) (t : TileId) (wa : Nat) : (s.dmDrew who t wa).turns = s.turns := rfl
@[simp] theorem State.dmDrew_draws (s : State) (who : Agent) (t : TileId) (wa : Nat) : (s.dmDrew who t wa).draws = s.draws + if readDraws (readWord (s.tile t).dm wa) (s.racing who t wa) then 2 else 0 := rfl
@[simp] theorem State.dmDrew_tile (s : State) (who : Agent) (t : TileId) (wa : Nat) (u : TileId) : (s.dmDrew who t wa).tile u = s.tile u := rfl
@[simp] theorem State.dmDrew_kind (s : State) (who : Agent) (t : TileId) (wa : Nat) (u : TileId) : (s.dmDrew who t wa).kind u = s.kind u := rfl
@[simp] theorem State.dmDrew_layout (s : State) (who : Agent) (t : TileId) (wa : Nat) (u : TileId) : (s.dmDrew who t wa).layout u = s.layout u := rfl
@[simp] theorem State.dmDrew_engine (s : State) (who : Agent) (t : TileId) (wa : Nat) (e : TileId) : (s.dmDrew who t wa).engine e = s.engine e := rfl

/-! ### `State.clearBds` -/

@[simp] theorem State.clearBds_tiles (s : State) (e : TileId) : (s.clearBds e).tiles = s.tiles := rfl
@[simp] theorem State.clearBds_host (s : State) (e : TileId) : (s.clearBds e).host = { s.host with eng := s.host.eng.set e (some { s.engine e with bd := .replicate 16 .cleared }) } := rfl
@[simp] theorem State.clearBds_faults (s : State) (e : TileId) : (s.clearBds e).faults = s.faults := rfl
@[simp] theorem State.clearBds_refusal (s : State) (e : TileId) : (s.clearBds e).refusal = s.refusal := rfl
@[simp] theorem State.clearBds_pending (s : State) (e : TileId) : (s.clearBds e).pending = s.pending := rfl
@[simp] theorem State.clearBds_writes (s : State) (e : TileId) : (s.clearBds e).writes = s.writes := rfl
@[simp] theorem State.clearBds_params (s : State) (e : TileId) : (s.clearBds e).params = s.params := rfl
@[simp] theorem State.clearBds_turns (s : State) (e : TileId) : (s.clearBds e).turns = s.turns := rfl
@[simp] theorem State.clearBds_draws (s : State) (e : TileId) : (s.clearBds e).draws = s.draws := rfl
@[simp] theorem State.clearBds_tile (s : State) (e : TileId) (u : TileId) : (s.clearBds e).tile u = s.tile u := rfl
@[simp] theorem State.clearBds_kind (s : State) (e : TileId) (u : TileId) : (s.clearBds e).kind u = s.kind u := rfl
@[simp] theorem State.clearBds_layout (s : State) (e : TileId) (u : TileId) : (s.clearBds e).layout u = s.layout u := rfl

/-! ### `State.dmWrite` -/

theorem State.dmWrite_tiles (s : State) (who : Agent) (t : TileId) (wa : Nat) (v : Word) : (s.dmWrite who t wa v).tiles = s.tiles.set t { s.tile t with dm := writeWord (s.tile t).dm wa v } := rfl
@[simp] theorem State.dmWrite_host (s : State) (who : Agent) (t : TileId) (wa : Nat) (v : Word) : (s.dmWrite who t wa v).host = s.host := rfl
@[simp] theorem State.dmWrite_faults (s : State) (who : Agent) (t : TileId) (wa : Nat) (v : Word) : (s.dmWrite who t wa v).faults = s.faults := rfl
@[simp] theorem State.dmWrite_refusal (s : State) (who : Agent) (t : TileId) (wa : Nat) (v : Word) : (s.dmWrite who t wa v).refusal = s.refusal := rfl
@[simp] theorem State.dmWrite_pending (s : State) (who : Agent) (t : TileId) (wa : Nat) (v : Word) : (s.dmWrite who t wa v).pending = s.pending := rfl
@[simp] theorem State.dmWrite_writes (s : State) (who : Agent) (t : TileId) (wa : Nat) (v : Word) : (s.dmWrite who t wa v).writes = noteWrite who t wa (readWord (s.tile t).dm wa) v s.writes := rfl
@[simp] theorem State.dmWrite_params (s : State) (who : Agent) (t : TileId) (wa : Nat) (v : Word) : (s.dmWrite who t wa v).params = s.params := rfl
@[simp] theorem State.dmWrite_turns (s : State) (who : Agent) (t : TileId) (wa : Nat) (v : Word) : (s.dmWrite who t wa v).turns = s.turns := rfl
@[simp] theorem State.dmWrite_draws (s : State) (who : Agent) (t : TileId) (wa : Nat) (v : Word) : (s.dmWrite who t wa v).draws = s.draws := rfl
@[simp] theorem State.dmWrite_engine (s : State) (who : Agent) (t : TileId) (wa : Nat) (v : Word) (e : TileId) : (s.dmWrite who t wa v).engine e = s.engine e := rfl

/-! ### `State.modBd` -/

@[simp] theorem State.modBd_tiles (s : State) (e : TileId) (n : Nat) (f : MirrorBd → MirrorBd) : (s.modBd e n f).tiles = s.tiles := rfl
@[simp] theorem State.modBd_host (s : State) (e : TileId) (n : Nat) (f : MirrorBd → MirrorBd) : (s.modBd e n f).host = { s.host with eng := s.host.eng.set e (some { s.engine e with bd := (s.engine e).bd.set (bdIx n) (f (s.engine e).bd[bdIx n]) }) } := rfl
@[simp] theorem State.modBd_faults (s : State) (e : TileId) (n : Nat) (f : MirrorBd → MirrorBd) : (s.modBd e n f).faults = s.faults := rfl
@[simp] theorem State.modBd_refusal (s : State) (e : TileId) (n : Nat) (f : MirrorBd → MirrorBd) : (s.modBd e n f).refusal = s.refusal := rfl
@[simp] theorem State.modBd_pending (s : State) (e : TileId) (n : Nat) (f : MirrorBd → MirrorBd) : (s.modBd e n f).pending = s.pending := rfl
@[simp] theorem State.modBd_writes (s : State) (e : TileId) (n : Nat) (f : MirrorBd → MirrorBd) : (s.modBd e n f).writes = s.writes := rfl
@[simp] theorem State.modBd_params (s : State) (e : TileId) (n : Nat) (f : MirrorBd → MirrorBd) : (s.modBd e n f).params = s.params := rfl
@[simp] theorem State.modBd_turns (s : State) (e : TileId) (n : Nat) (f : MirrorBd → MirrorBd) : (s.modBd e n f).turns = s.turns := rfl
@[simp] theorem State.modBd_draws (s : State) (e : TileId) (n : Nat) (f : MirrorBd → MirrorBd) : (s.modBd e n f).draws = s.draws := rfl
@[simp] theorem State.modBd_tile (s : State) (e : TileId) (n : Nat) (f : MirrorBd → MirrorBd) (u : TileId) : (s.modBd e n f).tile u = s.tile u := rfl
@[simp] theorem State.modBd_kind (s : State) (e : TileId) (n : Nat) (f : MirrorBd → MirrorBd) (u : TileId) : (s.modBd e n f).kind u = s.kind u := rfl
@[simp] theorem State.modBd_layout (s : State) (e : TileId) (n : Nat) (f : MirrorBd → MirrorBd) (u : TileId) : (s.modBd e n f).layout u = s.layout u := rfl

/-! ### `State.perform` -/

@[simp] theorem State.perform_tiles (s : State) (r : List HostOp × CmdResult) : (s.perform r).tiles = s.tiles := rfl
@[simp] theorem State.perform_host (s : State) (r : List HostOp × CmdResult) : (s.perform r).host = { s.host with queue := (r.1 ++ [.ret r.2]) ++ s.host.queue, result := none } := rfl
@[simp] theorem State.perform_faults (s : State) (r : List HostOp × CmdResult) : (s.perform r).faults = s.faults := rfl
@[simp] theorem State.perform_refusal (s : State) (r : List HostOp × CmdResult) : (s.perform r).refusal = s.refusal := rfl
@[simp] theorem State.perform_pending (s : State) (r : List HostOp × CmdResult) : (s.perform r).pending = s.pending := rfl
@[simp] theorem State.perform_writes (s : State) (r : List HostOp × CmdResult) : (s.perform r).writes = s.writes := rfl
@[simp] theorem State.perform_params (s : State) (r : List HostOp × CmdResult) : (s.perform r).params = s.params := rfl
@[simp] theorem State.perform_turns (s : State) (r : List HostOp × CmdResult) : (s.perform r).turns = s.turns := rfl
@[simp] theorem State.perform_draws (s : State) (r : List HostOp × CmdResult) : (s.perform r).draws = s.draws := rfl
@[simp] theorem State.perform_tile (s : State) (r : List HostOp × CmdResult) (u : TileId) : (s.perform r).tile u = s.tile u := rfl
@[simp] theorem State.perform_kind (s : State) (r : List HostOp × CmdResult) (u : TileId) : (s.perform r).kind u = s.kind u := rfl
@[simp] theorem State.perform_layout (s : State) (r : List HostOp × CmdResult) (u : TileId) : (s.perform r).layout u = s.layout u := rfl

/-! ### `State.setWalker` -/

theorem State.setWalker_tiles (s : State) (t : TileId) (c : ChIx) (w : Walker) : (s.setWalker t c w).tiles = s.tiles.set t ((s.tile t).setWalker c w) := rfl
@[simp] theorem State.setWalker_host (s : State) (t : TileId) (c : ChIx) (w : Walker) : (s.setWalker t c w).host = s.host := rfl
@[simp] theorem State.setWalker_faults (s : State) (t : TileId) (c : ChIx) (w : Walker) : (s.setWalker t c w).faults = s.faults := rfl
@[simp] theorem State.setWalker_refusal (s : State) (t : TileId) (c : ChIx) (w : Walker) : (s.setWalker t c w).refusal = s.refusal := rfl
@[simp] theorem State.setWalker_pending (s : State) (t : TileId) (c : ChIx) (w : Walker) : (s.setWalker t c w).pending = s.pending := rfl
@[simp] theorem State.setWalker_writes (s : State) (t : TileId) (c : ChIx) (w : Walker) : (s.setWalker t c w).writes = s.writes := rfl
@[simp] theorem State.setWalker_params (s : State) (t : TileId) (c : ChIx) (w : Walker) : (s.setWalker t c w).params = s.params := rfl
@[simp] theorem State.setWalker_turns (s : State) (t : TileId) (c : ChIx) (w : Walker) : (s.setWalker t c w).turns = s.turns := rfl
@[simp] theorem State.setWalker_draws (s : State) (t : TileId) (c : ChIx) (w : Walker) : (s.setWalker t c w).draws = s.draws := rfl
@[simp] theorem State.setWalker_engine (s : State) (t : TileId) (c : ChIx) (w : Walker) (e : TileId) : (s.setWalker t c w).engine e = s.engine e := rfl

/-! ### `State.load` -/

@[simp] theorem State.load_tiles (s : State) (op : HostOp) : (s.load op).tiles = s.tiles := rfl
@[simp] theorem State.load_host (s : State) (op : HostOp) : (s.load op).host = { s.host with queue := op :: s.host.queue } := rfl
@[simp] theorem State.load_faults (s : State) (op : HostOp) : (s.load op).faults = s.faults := rfl
@[simp] theorem State.load_refusal (s : State) (op : HostOp) : (s.load op).refusal = s.refusal := rfl
@[simp] theorem State.load_pending (s : State) (op : HostOp) : (s.load op).pending = s.pending := rfl
@[simp] theorem State.load_writes (s : State) (op : HostOp) : (s.load op).writes = s.writes := rfl
@[simp] theorem State.load_params (s : State) (op : HostOp) : (s.load op).params = s.params := rfl
@[simp] theorem State.load_turns (s : State) (op : HostOp) : (s.load op).turns = .host :: s.turns := rfl
@[simp] theorem State.load_draws (s : State) (op : HostOp) : (s.load op).draws = s.draws := rfl
@[simp] theorem State.load_tile (s : State) (op : HostOp) (u : TileId) : (s.load op).tile u = s.tile u := rfl
@[simp] theorem State.load_kind (s : State) (op : HostOp) (u : TileId) : (s.load op).kind u = s.kind u := rfl
@[simp] theorem State.load_layout (s : State) (op : HostOp) (u : TileId) : (s.load op).layout u = s.layout u := rfl

@[simp] theorem State.setWalker_tile_same (s : State) (t : TileId) (c : ChIx) (w : Walker) :
    (s.setWalker t c w).tile t = (s.tile t).setWalker c w := State.modTile_tile_same _ _ _

@[simp] theorem State.setWalker_tile_ne (s : State) (t u : TileId) (c : ChIx) (w : Walker) (h : u ≠ t) :
    (s.setWalker t c w).tile u = s.tile u := State.modTile_tile_ne _ _ _ _ h

@[simp] theorem State.dmWrite_tile_same (s : State) (who : Agent) (t : TileId) (wa : Nat) (v : Word) :
    (s.dmWrite who t wa v).tile t = { s.tile t with dm := writeWord (s.tile t).dm wa v } :=
  State.modTile_tile_same s t fun T => { T with dm := writeWord T.dm wa v }

@[simp] theorem State.dmWrite_tile_ne (s : State) (who : Agent) (t u : TileId) (wa : Nat) (v : Word) (h : u ≠ t) :
    (s.dmWrite who t wa v).tile u = s.tile u :=
  State.modTile_tile_ne s t u (fun T => { T with dm := writeWord T.dm wa v }) h

/-! ### `State.lockRequest` and `State.hostLock` -/

@[simp] theorem State.lockRequest_host (s : State) (who : Agent) (t : TileId) (l : LockIx) (q : LockKind) :
    (s.lockRequest who t l q).host = s.host := rfl
@[simp] theorem State.lockRequest_faults (s : State) (who : Agent) (t : TileId) (l : LockIx) (q : LockKind) :
    (s.lockRequest who t l q).faults = s.faults := rfl
@[simp] theorem State.lockRequest_refusal (s : State) (who : Agent) (t : TileId) (l : LockIx) (q : LockKind) :
    (s.lockRequest who t l q).refusal = s.refusal := rfl
@[simp] theorem State.lockRequest_pending (s : State) (who : Agent) (t : TileId) (l : LockIx) (q : LockKind) :
    (s.lockRequest who t l q).pending = s.pending := rfl
@[simp] theorem State.lockRequest_writes (s : State) (who : Agent) (t : TileId) (l : LockIx) (q : LockKind) :
    (s.lockRequest who t l q).writes = if s.lockOk t l q then noteLock who (t, l) s.writes else s.writes := rfl
@[simp] theorem State.lockRequest_params (s : State) (who : Agent) (t : TileId) (l : LockIx) (q : LockKind) :
    (s.lockRequest who t l q).params = s.params := rfl
@[simp] theorem State.lockRequest_turns (s : State) (who : Agent) (t : TileId) (l : LockIx) (q : LockKind) :
    (s.lockRequest who t l q).turns = s.turns := rfl
@[simp] theorem State.lockRequest_draws (s : State) (who : Agent) (t : TileId) (l : LockIx) (q : LockKind) :
    (s.lockRequest who t l q).draws = s.draws + if lockDraws s.params.relFree (s.tile t).lock[l] q then 1 else 0 := rfl
@[simp] theorem State.lockRequest_tile_same (s : State) (who : Agent) (t : TileId) (l : LockIx) (q : LockKind) :
    (s.lockRequest who t l q).tile t =
      { s.tile t with
        lock := (s.tile t).lock.set l (lockStep s.params.relFree (Config.freeBit s.draws) (s.tile t).lock[l] q).2 } :=
  State.modTile_tile_same s t fun T =>
    { T with lock := T.lock.set l (lockStep s.params.relFree (Config.freeBit s.draws) (s.tile t).lock[l] q).2 }

@[simp] theorem State.lockRequest_tile_ne (s : State) (who : Agent) (t u : TileId) (l : LockIx) (q : LockKind)
    (h : u ≠ t) : (s.lockRequest who t l q).tile u = s.tile u :=
  State.modTile_tile_ne s t u (fun T =>
    { T with lock := T.lock.set l (lockStep s.params.relFree (Config.freeBit s.draws) (s.tile t).lock[l] q).2 }) h


/-! ### `Tile.pushIn` -/

@[simp] theorem Tile.pushIn_ref (T : Tile) (p : SlaveId) (w : StreamWord) : (T.pushIn p w).ref = T.ref := rfl
@[simp] theorem Tile.pushIn_bdw (T : Tile) (p : SlaveId) (w : StreamWord) : (T.pushIn p w).bdw = T.bdw := rfl
@[simp] theorem Tile.pushIn_abCur (T : Tile) (p : SlaveId) (w : StreamWord) : (T.pushIn p w).abCur = T.abCur := rfl
@[simp] theorem Tile.pushIn_ctrl (T : Tile) (p : SlaveId) (w : StreamWord) : (T.pushIn p w).ctrl = T.ctrl := rfl
@[simp] theorem Tile.pushIn_startBd (T : Tile) (p : SlaveId) (w : StreamWord) : (T.pushIn p w).startBd = T.startBd := rfl
@[simp] theorem Tile.pushIn_lock (T : Tile) (p : SlaveId) (w : StreamWord) : (T.pushIn p w).lock = T.lock := rfl
@[simp] theorem Tile.pushIn_mcfg (T : Tile) (p : SlaveId) (w : StreamWord) : (T.pushIn p w).mcfg = T.mcfg := rfl
@[simp] theorem Tile.pushIn_scfg (T : Tile) (p : SlaveId) (w : StreamWord) : (T.pushIn p w).scfg = T.scfg := rfl
@[simp] theorem Tile.pushIn_slot (T : Tile) (p : SlaveId) (w : StreamWord) : (T.pushIn p w).slot = T.slot := rfl
@[simp] theorem Tile.pushIn_dm (T : Tile) (p : SlaveId) (w : StreamWord) : (T.pushIn p w).dm = T.dm := rfl
@[simp] theorem Tile.pushIn_walker (T : Tile) (p : SlaveId) (w : StreamWord) : (T.pushIn p w).walker = T.walker := rfl
@[simp] theorem Tile.pushIn_inQ (T : Tile) (p : SlaveId) (w : StreamWord) : (T.pushIn p w).inQ = T.inQ.set p (T.inQ[p] ++ [w]) := rfl
@[simp] theorem Tile.pushIn_outQ (T : Tile) (p : SlaveId) (w : StreamWord) : (T.pushIn p w).outQ = T.outQ := rfl
@[simp] theorem Tile.pushIn_pktRoute (T : Tile) (p : SlaveId) (w : StreamWord) : (T.pushIn p w).pktRoute = T.pktRoute := rfl
@[simp] theorem Tile.pushIn_arbOwner (T : Tile) (p : SlaveId) (w : StreamWord) : (T.pushIn p w).arbOwner = T.arbOwner := rfl
@[simp] theorem Tile.pushIn_drained (T : Tile) (p : SlaveId) (w : StreamWord) : (T.pushIn p w).drained = T.drained := rfl
@[simp] theorem Tile.pushIn_envData (T : Tile) (p : SlaveId) (w : StreamWord) : (T.pushIn p w).envData = T.envData := rfl

/-! ### `Tile.popIn` -/

@[simp] theorem Tile.popIn_ref (T : Tile) (p : SlaveId) : (T.popIn p).ref = T.ref := rfl
@[simp] theorem Tile.popIn_bdw (T : Tile) (p : SlaveId) : (T.popIn p).bdw = T.bdw := rfl
@[simp] theorem Tile.popIn_abCur (T : Tile) (p : SlaveId) : (T.popIn p).abCur = T.abCur := rfl
@[simp] theorem Tile.popIn_ctrl (T : Tile) (p : SlaveId) : (T.popIn p).ctrl = T.ctrl := rfl
@[simp] theorem Tile.popIn_startBd (T : Tile) (p : SlaveId) : (T.popIn p).startBd = T.startBd := rfl
@[simp] theorem Tile.popIn_lock (T : Tile) (p : SlaveId) : (T.popIn p).lock = T.lock := rfl
@[simp] theorem Tile.popIn_mcfg (T : Tile) (p : SlaveId) : (T.popIn p).mcfg = T.mcfg := rfl
@[simp] theorem Tile.popIn_scfg (T : Tile) (p : SlaveId) : (T.popIn p).scfg = T.scfg := rfl
@[simp] theorem Tile.popIn_slot (T : Tile) (p : SlaveId) : (T.popIn p).slot = T.slot := rfl
@[simp] theorem Tile.popIn_dm (T : Tile) (p : SlaveId) : (T.popIn p).dm = T.dm := rfl
@[simp] theorem Tile.popIn_walker (T : Tile) (p : SlaveId) : (T.popIn p).walker = T.walker := rfl
@[simp] theorem Tile.popIn_inQ (T : Tile) (p : SlaveId) : (T.popIn p).inQ = T.inQ.set p T.inQ[p].tail := rfl
@[simp] theorem Tile.popIn_outQ (T : Tile) (p : SlaveId) : (T.popIn p).outQ = T.outQ := rfl
@[simp] theorem Tile.popIn_pktRoute (T : Tile) (p : SlaveId) : (T.popIn p).pktRoute = T.pktRoute := rfl
@[simp] theorem Tile.popIn_arbOwner (T : Tile) (p : SlaveId) : (T.popIn p).arbOwner = T.arbOwner := rfl
@[simp] theorem Tile.popIn_drained (T : Tile) (p : SlaveId) : (T.popIn p).drained = T.drained := rfl
@[simp] theorem Tile.popIn_envData (T : Tile) (p : SlaveId) : (T.popIn p).envData = T.envData := rfl

/-! ### `Tile.popOut` -/

@[simp] theorem Tile.popOut_ref (T : Tile) (m : MasterId) : (T.popOut m).ref = T.ref := rfl
@[simp] theorem Tile.popOut_bdw (T : Tile) (m : MasterId) : (T.popOut m).bdw = T.bdw := rfl
@[simp] theorem Tile.popOut_abCur (T : Tile) (m : MasterId) : (T.popOut m).abCur = T.abCur := rfl
@[simp] theorem Tile.popOut_ctrl (T : Tile) (m : MasterId) : (T.popOut m).ctrl = T.ctrl := rfl
@[simp] theorem Tile.popOut_startBd (T : Tile) (m : MasterId) : (T.popOut m).startBd = T.startBd := rfl
@[simp] theorem Tile.popOut_lock (T : Tile) (m : MasterId) : (T.popOut m).lock = T.lock := rfl
@[simp] theorem Tile.popOut_mcfg (T : Tile) (m : MasterId) : (T.popOut m).mcfg = T.mcfg := rfl
@[simp] theorem Tile.popOut_scfg (T : Tile) (m : MasterId) : (T.popOut m).scfg = T.scfg := rfl
@[simp] theorem Tile.popOut_slot (T : Tile) (m : MasterId) : (T.popOut m).slot = T.slot := rfl
@[simp] theorem Tile.popOut_dm (T : Tile) (m : MasterId) : (T.popOut m).dm = T.dm := rfl
@[simp] theorem Tile.popOut_walker (T : Tile) (m : MasterId) : (T.popOut m).walker = T.walker := rfl
@[simp] theorem Tile.popOut_inQ (T : Tile) (m : MasterId) : (T.popOut m).inQ = T.inQ := rfl
@[simp] theorem Tile.popOut_outQ (T : Tile) (m : MasterId) : (T.popOut m).outQ = T.outQ.set m T.outQ[m].tail := rfl
@[simp] theorem Tile.popOut_pktRoute (T : Tile) (m : MasterId) : (T.popOut m).pktRoute = T.pktRoute := rfl
@[simp] theorem Tile.popOut_arbOwner (T : Tile) (m : MasterId) : (T.popOut m).arbOwner = T.arbOwner := rfl
@[simp] theorem Tile.popOut_drained (T : Tile) (m : MasterId) : (T.popOut m).drained = T.drained := rfl
@[simp] theorem Tile.popOut_envData (T : Tile) (m : MasterId) : (T.popOut m).envData = T.envData := rfl

/-! ### `Tile.pushOut` -/

@[simp] theorem Tile.pushOut_ref (T : Tile) (ms : List MasterId) (w : StreamWord) : (T.pushOut ms w).ref = T.ref := by
  simp only [Tile.pushOut]
@[simp] theorem Tile.pushOut_bdw (T : Tile) (ms : List MasterId) (w : StreamWord) : (T.pushOut ms w).bdw = T.bdw := by
  simp only [Tile.pushOut]
@[simp] theorem Tile.pushOut_abCur (T : Tile) (ms : List MasterId) (w : StreamWord) : (T.pushOut ms w).abCur = T.abCur := by
  simp only [Tile.pushOut]
@[simp] theorem Tile.pushOut_ctrl (T : Tile) (ms : List MasterId) (w : StreamWord) : (T.pushOut ms w).ctrl = T.ctrl := by
  simp only [Tile.pushOut]
@[simp] theorem Tile.pushOut_startBd (T : Tile) (ms : List MasterId) (w : StreamWord) : (T.pushOut ms w).startBd = T.startBd := by
  simp only [Tile.pushOut]
@[simp] theorem Tile.pushOut_lock (T : Tile) (ms : List MasterId) (w : StreamWord) : (T.pushOut ms w).lock = T.lock := by
  simp only [Tile.pushOut]
@[simp] theorem Tile.pushOut_mcfg (T : Tile) (ms : List MasterId) (w : StreamWord) : (T.pushOut ms w).mcfg = T.mcfg := by
  simp only [Tile.pushOut]
@[simp] theorem Tile.pushOut_scfg (T : Tile) (ms : List MasterId) (w : StreamWord) : (T.pushOut ms w).scfg = T.scfg := by
  simp only [Tile.pushOut]
@[simp] theorem Tile.pushOut_slot (T : Tile) (ms : List MasterId) (w : StreamWord) : (T.pushOut ms w).slot = T.slot := by
  simp only [Tile.pushOut]
@[simp] theorem Tile.pushOut_dm (T : Tile) (ms : List MasterId) (w : StreamWord) : (T.pushOut ms w).dm = T.dm := by
  simp only [Tile.pushOut]
@[simp] theorem Tile.pushOut_walker (T : Tile) (ms : List MasterId) (w : StreamWord) : (T.pushOut ms w).walker = T.walker := by
  simp only [Tile.pushOut]
@[simp] theorem Tile.pushOut_inQ (T : Tile) (ms : List MasterId) (w : StreamWord) : (T.pushOut ms w).inQ = T.inQ := by
  simp only [Tile.pushOut]
@[simp] theorem Tile.pushOut_outQ (T : Tile) (ms : List MasterId) (w : StreamWord) : (T.pushOut ms w).outQ = Vector.ofFn fun m : MasterId => if m ∈ ms then T.outQ[m] ++ [w] else T.outQ[m] := by
  simp only [Tile.pushOut]
@[simp] theorem Tile.pushOut_pktRoute (T : Tile) (ms : List MasterId) (w : StreamWord) : (T.pushOut ms w).pktRoute = T.pktRoute := by
  simp only [Tile.pushOut]
@[simp] theorem Tile.pushOut_arbOwner (T : Tile) (ms : List MasterId) (w : StreamWord) : (T.pushOut ms w).arbOwner = T.arbOwner := by
  simp only [Tile.pushOut]
@[simp] theorem Tile.pushOut_drained (T : Tile) (ms : List MasterId) (w : StreamWord) : (T.pushOut ms w).drained = T.drained := by
  simp only [Tile.pushOut]
@[simp] theorem Tile.pushOut_envData (T : Tile) (ms : List MasterId) (w : StreamWord) : (T.pushOut ms w).envData = T.envData := by
  simp only [Tile.pushOut]

/-! ### `Tile.setWalker` -/

@[simp] theorem Tile.setWalker_ref (T : Tile) (c : ChIx) (w : Walker) : (T.setWalker c w).ref = T.ref := rfl
@[simp] theorem Tile.setWalker_bdw (T : Tile) (c : ChIx) (w : Walker) : (T.setWalker c w).bdw = T.bdw := rfl
@[simp] theorem Tile.setWalker_abCur (T : Tile) (c : ChIx) (w : Walker) : (T.setWalker c w).abCur = T.abCur := rfl
@[simp] theorem Tile.setWalker_ctrl (T : Tile) (c : ChIx) (w : Walker) : (T.setWalker c w).ctrl = T.ctrl := rfl
@[simp] theorem Tile.setWalker_startBd (T : Tile) (c : ChIx) (w : Walker) : (T.setWalker c w).startBd = T.startBd := rfl
@[simp] theorem Tile.setWalker_lock (T : Tile) (c : ChIx) (w : Walker) : (T.setWalker c w).lock = T.lock := rfl
@[simp] theorem Tile.setWalker_mcfg (T : Tile) (c : ChIx) (w : Walker) : (T.setWalker c w).mcfg = T.mcfg := rfl
@[simp] theorem Tile.setWalker_scfg (T : Tile) (c : ChIx) (w : Walker) : (T.setWalker c w).scfg = T.scfg := rfl
@[simp] theorem Tile.setWalker_slot (T : Tile) (c : ChIx) (w : Walker) : (T.setWalker c w).slot = T.slot := rfl
@[simp] theorem Tile.setWalker_dm (T : Tile) (c : ChIx) (w : Walker) : (T.setWalker c w).dm = T.dm := rfl
@[simp] theorem Tile.setWalker_walker (T : Tile) (c : ChIx) (w : Walker) : (T.setWalker c w).walker = T.walker.set c w := rfl
@[simp] theorem Tile.setWalker_inQ (T : Tile) (c : ChIx) (w : Walker) : (T.setWalker c w).inQ = T.inQ := rfl
@[simp] theorem Tile.setWalker_outQ (T : Tile) (c : ChIx) (w : Walker) : (T.setWalker c w).outQ = T.outQ := rfl
@[simp] theorem Tile.setWalker_pktRoute (T : Tile) (c : ChIx) (w : Walker) : (T.setWalker c w).pktRoute = T.pktRoute := rfl
@[simp] theorem Tile.setWalker_arbOwner (T : Tile) (c : ChIx) (w : Walker) : (T.setWalker c w).arbOwner = T.arbOwner := rfl
@[simp] theorem Tile.setWalker_drained (T : Tile) (c : ChIx) (w : Walker) : (T.setWalker c w).drained = T.drained := rfl
@[simp] theorem Tile.setWalker_envData (T : Tile) (c : ChIx) (w : Walker) : (T.setWalker c w).envData = T.envData := rfl

/-! ### `Tile.resetWalker` -/

@[simp] theorem Tile.resetWalker_ref (T : Tile) (c : ChIx) : (T.resetWalker c).ref = T.ref := rfl
@[simp] theorem Tile.resetWalker_bdw (T : Tile) (c : ChIx) : (T.resetWalker c).bdw = T.bdw := rfl
@[simp] theorem Tile.resetWalker_abCur (T : Tile) (c : ChIx) : (T.resetWalker c).abCur = T.abCur := rfl
@[simp] theorem Tile.resetWalker_ctrl (T : Tile) (c : ChIx) : (T.resetWalker c).ctrl = T.ctrl := rfl
@[simp] theorem Tile.resetWalker_startBd (T : Tile) (c : ChIx) : (T.resetWalker c).startBd = T.startBd := rfl
@[simp] theorem Tile.resetWalker_lock (T : Tile) (c : ChIx) : (T.resetWalker c).lock = T.lock := rfl
@[simp] theorem Tile.resetWalker_mcfg (T : Tile) (c : ChIx) : (T.resetWalker c).mcfg = T.mcfg := rfl
@[simp] theorem Tile.resetWalker_scfg (T : Tile) (c : ChIx) : (T.resetWalker c).scfg = T.scfg := rfl
@[simp] theorem Tile.resetWalker_slot (T : Tile) (c : ChIx) : (T.resetWalker c).slot = T.slot := rfl
@[simp] theorem Tile.resetWalker_dm (T : Tile) (c : ChIx) : (T.resetWalker c).dm = T.dm := rfl
@[simp] theorem Tile.resetWalker_walker (T : Tile) (c : ChIx) : (T.resetWalker c).walker = T.walker.set c .powerOn := rfl
@[simp] theorem Tile.resetWalker_inQ (T : Tile) (c : ChIx) : (T.resetWalker c).inQ = T.inQ := rfl
@[simp] theorem Tile.resetWalker_outQ (T : Tile) (c : ChIx) : (T.resetWalker c).outQ = T.outQ := rfl
@[simp] theorem Tile.resetWalker_pktRoute (T : Tile) (c : ChIx) : (T.resetWalker c).pktRoute = T.pktRoute := rfl
@[simp] theorem Tile.resetWalker_arbOwner (T : Tile) (c : ChIx) : (T.resetWalker c).arbOwner = T.arbOwner := rfl
@[simp] theorem Tile.resetWalker_drained (T : Tile) (c : ChIx) : (T.resetWalker c).drained = T.drained := rfl
@[simp] theorem Tile.resetWalker_envData (T : Tile) (c : ChIx) : (T.resetWalker c).envData = T.envData := rfl

/-! ### `Tile.writeBd` -/

@[simp] theorem Tile.writeBd_ref (T : Tile) (n : BdIx) (k : BdWordIx) (v : Word) : (T.writeBd n k v).ref = T.ref := rfl
@[simp] theorem Tile.writeBd_bdw (T : Tile) (n : BdIx) (k : BdWordIx) (v : Word) : (T.writeBd n k v).bdw = T.bdw.set n (T.bdw[n].set k (.write v)) := rfl
@[simp] theorem Tile.writeBd_abCur (T : Tile) (n : BdIx) (k : BdWordIx) (v : Word) : (T.writeBd n k v).abCur = if k = 6 then T.abCur.set n .a else T.abCur := rfl
@[simp] theorem Tile.writeBd_ctrl (T : Tile) (n : BdIx) (k : BdWordIx) (v : Word) : (T.writeBd n k v).ctrl = T.ctrl := rfl
@[simp] theorem Tile.writeBd_startBd (T : Tile) (n : BdIx) (k : BdWordIx) (v : Word) : (T.writeBd n k v).startBd = T.startBd := rfl
@[simp] theorem Tile.writeBd_lock (T : Tile) (n : BdIx) (k : BdWordIx) (v : Word) : (T.writeBd n k v).lock = T.lock := rfl
@[simp] theorem Tile.writeBd_mcfg (T : Tile) (n : BdIx) (k : BdWordIx) (v : Word) : (T.writeBd n k v).mcfg = T.mcfg := rfl
@[simp] theorem Tile.writeBd_scfg (T : Tile) (n : BdIx) (k : BdWordIx) (v : Word) : (T.writeBd n k v).scfg = T.scfg := rfl
@[simp] theorem Tile.writeBd_slot (T : Tile) (n : BdIx) (k : BdWordIx) (v : Word) : (T.writeBd n k v).slot = T.slot := rfl
@[simp] theorem Tile.writeBd_dm (T : Tile) (n : BdIx) (k : BdWordIx) (v : Word) : (T.writeBd n k v).dm = T.dm := rfl
@[simp] theorem Tile.writeBd_walker (T : Tile) (n : BdIx) (k : BdWordIx) (v : Word) : (T.writeBd n k v).walker = T.walker := rfl
@[simp] theorem Tile.writeBd_inQ (T : Tile) (n : BdIx) (k : BdWordIx) (v : Word) : (T.writeBd n k v).inQ = T.inQ := rfl
@[simp] theorem Tile.writeBd_outQ (T : Tile) (n : BdIx) (k : BdWordIx) (v : Word) : (T.writeBd n k v).outQ = T.outQ := rfl
@[simp] theorem Tile.writeBd_pktRoute (T : Tile) (n : BdIx) (k : BdWordIx) (v : Word) : (T.writeBd n k v).pktRoute = T.pktRoute := rfl
@[simp] theorem Tile.writeBd_arbOwner (T : Tile) (n : BdIx) (k : BdWordIx) (v : Word) : (T.writeBd n k v).arbOwner = T.arbOwner := rfl
@[simp] theorem Tile.writeBd_drained (T : Tile) (n : BdIx) (k : BdWordIx) (v : Word) : (T.writeBd n k v).drained = T.drained := rfl
@[simp] theorem Tile.writeBd_envData (T : Tile) (n : BdIx) (k : BdWordIx) (v : Word) : (T.writeBd n k v).envData = T.envData := rfl

/-! ### `Tile.writeStartBd` -/

@[simp] theorem Tile.writeStartBd_ref (T : Tile) (c : ChIx) (v : Word) : (T.writeStartBd c v).ref = T.ref := rfl
@[simp] theorem Tile.writeStartBd_bdw (T : Tile) (c : ChIx) (v : Word) : (T.writeStartBd c v).bdw = T.bdw := rfl
@[simp] theorem Tile.writeStartBd_abCur (T : Tile) (c : ChIx) (v : Word) : (T.writeStartBd c v).abCur = T.abCur := rfl
@[simp] theorem Tile.writeStartBd_ctrl (T : Tile) (c : ChIx) (v : Word) : (T.writeStartBd c v).ctrl = T.ctrl := rfl
@[simp] theorem Tile.writeStartBd_startBd (T : Tile) (c : ChIx) (v : Word) : (T.writeStartBd c v).startBd = T.startBd.set c (.write v) := rfl
@[simp] theorem Tile.writeStartBd_lock (T : Tile) (c : ChIx) (v : Word) : (T.writeStartBd c v).lock = T.lock := rfl
@[simp] theorem Tile.writeStartBd_mcfg (T : Tile) (c : ChIx) (v : Word) : (T.writeStartBd c v).mcfg = T.mcfg := rfl
@[simp] theorem Tile.writeStartBd_scfg (T : Tile) (c : ChIx) (v : Word) : (T.writeStartBd c v).scfg = T.scfg := rfl
@[simp] theorem Tile.writeStartBd_slot (T : Tile) (c : ChIx) (v : Word) : (T.writeStartBd c v).slot = T.slot := rfl
@[simp] theorem Tile.writeStartBd_dm (T : Tile) (c : ChIx) (v : Word) : (T.writeStartBd c v).dm = T.dm := rfl
@[simp] theorem Tile.writeStartBd_walker (T : Tile) (c : ChIx) (v : Word) : (T.writeStartBd c v).walker = T.walker.set c { T.walker[c] with startPending := true } := rfl
@[simp] theorem Tile.writeStartBd_inQ (T : Tile) (c : ChIx) (v : Word) : (T.writeStartBd c v).inQ = T.inQ := rfl
@[simp] theorem Tile.writeStartBd_outQ (T : Tile) (c : ChIx) (v : Word) : (T.writeStartBd c v).outQ = T.outQ := rfl
@[simp] theorem Tile.writeStartBd_pktRoute (T : Tile) (c : ChIx) (v : Word) : (T.writeStartBd c v).pktRoute = T.pktRoute := rfl
@[simp] theorem Tile.writeStartBd_arbOwner (T : Tile) (c : ChIx) (v : Word) : (T.writeStartBd c v).arbOwner = T.arbOwner := rfl
@[simp] theorem Tile.writeStartBd_drained (T : Tile) (c : ChIx) (v : Word) : (T.writeStartBd c v).drained = T.drained := rfl
@[simp] theorem Tile.writeStartBd_envData (T : Tile) (c : ChIx) (v : Word) : (T.writeStartBd c v).envData = T.envData := rfl

/-! ### `Tile.writeCtrl` -/

@[simp] theorem Tile.writeCtrl_ref (T : Tile) (L : Config.Layout) (c : ChIx) (v : Word) : (T.writeCtrl L c v).ref = T.ref := by
  unfold Tile.writeCtrl; split <;> simp_all
@[simp] theorem Tile.writeCtrl_bdw (T : Tile) (L : Config.Layout) (c : ChIx) (v : Word) : (T.writeCtrl L c v).bdw = T.bdw := by
  unfold Tile.writeCtrl; split <;> simp_all
@[simp] theorem Tile.writeCtrl_abCur (T : Tile) (L : Config.Layout) (c : ChIx) (v : Word) : (T.writeCtrl L c v).abCur = T.abCur := by
  unfold Tile.writeCtrl; split <;> simp_all
@[simp] theorem Tile.writeCtrl_ctrl (T : Tile) (L : Config.Layout) (c : ChIx) (v : Word) : (T.writeCtrl L c v).ctrl = T.ctrl.set c (.write v) := by
  unfold Tile.writeCtrl; split <;> simp_all
@[simp] theorem Tile.writeCtrl_startBd (T : Tile) (L : Config.Layout) (c : ChIx) (v : Word) : (T.writeCtrl L c v).startBd = T.startBd := by
  unfold Tile.writeCtrl; split <;> simp_all
@[simp] theorem Tile.writeCtrl_lock (T : Tile) (L : Config.Layout) (c : ChIx) (v : Word) : (T.writeCtrl L c v).lock = T.lock := by
  unfold Tile.writeCtrl; split <;> simp_all
@[simp] theorem Tile.writeCtrl_mcfg (T : Tile) (L : Config.Layout) (c : ChIx) (v : Word) : (T.writeCtrl L c v).mcfg = T.mcfg := by
  unfold Tile.writeCtrl; split <;> simp_all
@[simp] theorem Tile.writeCtrl_scfg (T : Tile) (L : Config.Layout) (c : ChIx) (v : Word) : (T.writeCtrl L c v).scfg = T.scfg := by
  unfold Tile.writeCtrl; split <;> simp_all
@[simp] theorem Tile.writeCtrl_slot (T : Tile) (L : Config.Layout) (c : ChIx) (v : Word) : (T.writeCtrl L c v).slot = T.slot := by
  unfold Tile.writeCtrl; split <;> simp_all
@[simp] theorem Tile.writeCtrl_dm (T : Tile) (L : Config.Layout) (c : ChIx) (v : Word) : (T.writeCtrl L c v).dm = T.dm := by
  unfold Tile.writeCtrl; split <;> simp_all
@[simp] theorem Tile.writeCtrl_walker (T : Tile) (L : Config.Layout) (c : ChIx) (v : Word) : (T.writeCtrl L c v).walker = if ctrlReset L v then T.walker.set c .powerOn else T.walker := by
  unfold Tile.writeCtrl; split <;> simp_all
@[simp] theorem Tile.writeCtrl_inQ (T : Tile) (L : Config.Layout) (c : ChIx) (v : Word) : (T.writeCtrl L c v).inQ = T.inQ := by
  unfold Tile.writeCtrl; split <;> simp_all
@[simp] theorem Tile.writeCtrl_outQ (T : Tile) (L : Config.Layout) (c : ChIx) (v : Word) : (T.writeCtrl L c v).outQ = T.outQ := by
  unfold Tile.writeCtrl; split <;> simp_all
@[simp] theorem Tile.writeCtrl_pktRoute (T : Tile) (L : Config.Layout) (c : ChIx) (v : Word) : (T.writeCtrl L c v).pktRoute = T.pktRoute := by
  unfold Tile.writeCtrl; split <;> simp_all
@[simp] theorem Tile.writeCtrl_arbOwner (T : Tile) (L : Config.Layout) (c : ChIx) (v : Word) : (T.writeCtrl L c v).arbOwner = T.arbOwner := by
  unfold Tile.writeCtrl; split <;> simp_all
@[simp] theorem Tile.writeCtrl_drained (T : Tile) (L : Config.Layout) (c : ChIx) (v : Word) : (T.writeCtrl L c v).drained = T.drained := by
  unfold Tile.writeCtrl; split <;> simp_all
@[simp] theorem Tile.writeCtrl_envData (T : Tile) (L : Config.Layout) (c : ChIx) (v : Word) : (T.writeCtrl L c v).envData = T.envData := by
  unfold Tile.writeCtrl; split <;> simp_all

/-! ### `Tile.forward` -/

@[simp] theorem Tile.forward_ref (T : Tile) (q : Config.Params) (p : SlaveId) (r : PktRoute) (w : StreamWord) : (T.forward q p r w).ref = T.ref := by
  simp only [Tile.forward, Tile.pushOut_ref, Tile.popIn_ref]
@[simp] theorem Tile.forward_bdw (T : Tile) (q : Config.Params) (p : SlaveId) (r : PktRoute) (w : StreamWord) : (T.forward q p r w).bdw = T.bdw := by
  simp only [Tile.forward, Tile.pushOut_bdw, Tile.popIn_bdw]
@[simp] theorem Tile.forward_abCur (T : Tile) (q : Config.Params) (p : SlaveId) (r : PktRoute) (w : StreamWord) : (T.forward q p r w).abCur = T.abCur := by
  simp only [Tile.forward, Tile.pushOut_abCur, Tile.popIn_abCur]
@[simp] theorem Tile.forward_ctrl (T : Tile) (q : Config.Params) (p : SlaveId) (r : PktRoute) (w : StreamWord) : (T.forward q p r w).ctrl = T.ctrl := by
  simp only [Tile.forward, Tile.pushOut_ctrl, Tile.popIn_ctrl]
@[simp] theorem Tile.forward_startBd (T : Tile) (q : Config.Params) (p : SlaveId) (r : PktRoute) (w : StreamWord) : (T.forward q p r w).startBd = T.startBd := by
  simp only [Tile.forward, Tile.pushOut_startBd, Tile.popIn_startBd]
@[simp] theorem Tile.forward_lock (T : Tile) (q : Config.Params) (p : SlaveId) (r : PktRoute) (w : StreamWord) : (T.forward q p r w).lock = T.lock := by
  simp only [Tile.forward, Tile.pushOut_lock, Tile.popIn_lock]
@[simp] theorem Tile.forward_mcfg (T : Tile) (q : Config.Params) (p : SlaveId) (r : PktRoute) (w : StreamWord) : (T.forward q p r w).mcfg = T.mcfg := by
  simp only [Tile.forward, Tile.pushOut_mcfg, Tile.popIn_mcfg]
@[simp] theorem Tile.forward_scfg (T : Tile) (q : Config.Params) (p : SlaveId) (r : PktRoute) (w : StreamWord) : (T.forward q p r w).scfg = T.scfg := by
  simp only [Tile.forward, Tile.pushOut_scfg, Tile.popIn_scfg]
@[simp] theorem Tile.forward_slot (T : Tile) (q : Config.Params) (p : SlaveId) (r : PktRoute) (w : StreamWord) : (T.forward q p r w).slot = T.slot := by
  simp only [Tile.forward, Tile.pushOut_slot, Tile.popIn_slot]
@[simp] theorem Tile.forward_dm (T : Tile) (q : Config.Params) (p : SlaveId) (r : PktRoute) (w : StreamWord) : (T.forward q p r w).dm = T.dm := by
  simp only [Tile.forward, Tile.pushOut_dm, Tile.popIn_dm]
@[simp] theorem Tile.forward_walker (T : Tile) (q : Config.Params) (p : SlaveId) (r : PktRoute) (w : StreamWord) : (T.forward q p r w).walker = T.walker := by
  simp only [Tile.forward, Tile.pushOut_walker, Tile.popIn_walker]
@[simp] theorem Tile.forward_inQ (T : Tile) (q : Config.Params) (p : SlaveId) (r : PktRoute) (w : StreamWord) : (T.forward q p r w).inQ = T.inQ.set p T.inQ[p].tail := by
  simp only [Tile.forward, Tile.pushOut_inQ, Tile.popIn_inQ]
@[simp] theorem Tile.forward_outQ (T : Tile) (q : Config.Params) (p : SlaveId) (r : PktRoute) (w : StreamWord) : (T.forward q p r w).outQ = Vector.ofFn fun m : MasterId => if m ∈ T.receivers q r then T.outQ[m] ++ [w] else T.outQ[m] := by
  simp only [Tile.forward, Tile.pushOut_outQ, Tile.popIn_outQ]
@[simp] theorem Tile.forward_pktRoute (T : Tile) (q : Config.Params) (p : SlaveId) (r : PktRoute) (w : StreamWord) : (T.forward q p r w).pktRoute = T.pktRoute.set p (if w.last then none else some { r with first := false }) := by
  simp only [Tile.forward]
@[simp] theorem Tile.forward_arbOwner (T : Tile) (q : Config.Params) (p : SlaveId) (r : PktRoute) (w : StreamWord) : (T.forward q p r w).arbOwner = T.arbOwner.set (arbIx r.arb) (if w.last then none else some p) := by
  simp only [Tile.forward]
@[simp] theorem Tile.forward_drained (T : Tile) (q : Config.Params) (p : SlaveId) (r : PktRoute) (w : StreamWord) : (T.forward q p r w).drained = T.drained := by
  simp only [Tile.forward, Tile.pushOut_drained, Tile.popIn_drained]
@[simp] theorem Tile.forward_envData (T : Tile) (q : Config.Params) (p : SlaveId) (r : PktRoute) (w : StreamWord) : (T.forward q p r w).envData = T.envData := by
  simp only [Tile.forward, Tile.pushOut_envData, Tile.popIn_envData]

end Sys2Proof.Machine
end

