-- ==== Sys2Proof/Laws/Memory.lean ====
section
/-! SUPPORT. Data memory: every operation keeps the canonical form, a read after a write to the same place gives the value
written, and a write leaves every other place alone. -/

namespace Sys2Proof.Machine

/-! ### Bytes -/

@[simp] theorem readByte_writeByte_same (m : Memory) (a : Nat) (x : Byte) : readByte (writeByte m a x) a = some x := by
  induction m with
  | nil => simp [writeByte, readByte]
  | cons e m ih =>
    obtain ⟨k, b⟩ := e
    by_cases h1 : a < k
    · simp [writeByte, readByte, h1]
    · by_cases h2 : a = k
      · simp [writeByte, readByte, h2]
      · simp [writeByte, readByte, h1, h2, Ne.symm h2, ih]

theorem readByte_writeByte_ne (m : Memory) (a c : Nat) (x : Byte) (h : c ≠ a) :
    readByte (writeByte m a x) c = readByte m c := by
  induction m with
  | nil => simp [writeByte, readByte, h.symm]
  | cons e m ih =>
    obtain ⟨k, b⟩ := e
    by_cases h1 : a < k
    · simp [writeByte, readByte, h1, h.symm]
    · by_cases h2 : a = k
      · subst h2; simp [writeByte, readByte, h.symm]
      · simp [writeByte, readByte, h1, h2, ih]

theorem readByte_writeByte (m : Memory) (a c : Nat) (x : Byte) :
    readByte (writeByte m a x) c = if c = a then some x else readByte m c := by
  by_cases h : c = a
  · subst h; simp
  · simp [h, readByte_writeByte_ne m a c x h]

/-- Every entry of a memory after a write is the entry written or an entry from before. -/
theorem mem_writeByte (m : Memory) (a : Nat) (x : Byte) (e : Host.Cell) (h : e ∈ writeByte m a x) :
    e = (a, x) ∨ e ∈ m := by
  induction m with
  | nil => simpa [writeByte] using h
  | cons d m ih =>
    obtain ⟨k, b⟩ := d
    by_cases h1 : a < k
    · simpa [writeByte, h1] using h
    · by_cases h2 : a = k
      · simp [writeByte, h2] at h
        rcases h with h | h
        · exact .inl (by simp [h, h2])
        · exact .inr (by simp [h])
      · simp [writeByte, h1, h2] at h
        rcases h with h | h
        · exact .inr (by simp [h])
        · exact (ih h).imp id (List.mem_cons_of_mem _)

/-- A byte written inside data memory keeps the canonical form. -/
theorem writeByte_wf (n : Nat) (m : Memory) (a : Nat) (x : Byte) (ha : a < 4 * n) (h : Memory.wf n m) :
    Memory.wf n (writeByte m a x) := by
  obtain ⟨hp, hb⟩ := h
  refine ⟨?_, fun e he => (mem_writeByte m a x e he).elim (fun h => by simpa [h] using ha) (hb e)⟩
  clear hb ha
  induction m with
  | nil => simp [writeByte]
  | cons d m ih =>
    obtain ⟨k, b⟩ := d
    rw [List.pairwise_cons] at hp
    by_cases h1 : a < k
    · simp only [writeByte, h1, if_true]
      refine List.pairwise_cons.2 ⟨fun e he => ?_, List.pairwise_cons.2 hp⟩
      rcases List.mem_cons.1 he with rfl | he
      · exact h1
      · exact Nat.lt_trans h1 (hp.1 e he)
    · by_cases h2 : a = k
      · subst h2; simp only [writeByte, Nat.lt_irrefl, if_false, if_true]
        exact List.pairwise_cons.2 hp
      · simp only [writeByte, h1, h2, if_false]
        refine List.pairwise_cons.2 ⟨fun e he => ?_, ih hp.2⟩
        rcases mem_writeByte m a x e he with rfl | he
        · show k < a; omega
        · exact hp.1 e he

/-! ### Words -/

/-- A word written inside data memory keeps the canonical form. -/
theorem writeWord_wf (n : Nat) (m : Memory) (wa : Nat) (v : Word) (hw : wa < n) (h : Memory.wf n m) :
    Memory.wf n (writeWord m wa v) := by
  have hb : ∀ b, b < 4 → byteAddr wa b < 4 * n := fun b hb => by simp only [byteAddr]; omega
  simp only [writeWord]
  exact writeByte_wf _ _ _ _ (hb 3 (by decide)) (writeByte_wf _ _ _ _ (hb 2 (by decide))
    (writeByte_wf _ _ _ _ (hb 1 (by decide)) (writeByte_wf _ _ _ _ (hb 0 (by decide)) h)))

/-- What one byte reads after a word is written (R70). -/
theorem readByte_writeWord (m : Memory) (wa : Nat) (v : Word) (a : Nat) :
    readByte (writeWord m wa v) a =
      if a = byteAddr wa 3 then some (v.extractLsb' 24 8) else if a = byteAddr wa 2 then some (v.extractLsb' 16 8)
      else if a = byteAddr wa 1 then some (v.extractLsb' 8 8) else if a = byteAddr wa 0 then some (v.extractLsb' 0 8)
      else readByte m a := by
  simp only [writeWord, readByte_writeByte]

/-- A byte outside the word written reads as before. -/
theorem readByte_writeWord_outside (m : Memory) (wa : Nat) (v : Word) (a : Nat)
    (h : a < byteAddr wa 0 ∨ byteAddr wa 3 < a) : readByte (writeWord m wa v) a = readByte m a := by
  have hb : ∀ b, b < 4 → a ≠ byteAddr wa b := fun b hb => by simp only [byteAddr] at *; omega
  rw [readByte_writeWord, if_neg (hb 3 (by decide)), if_neg (hb 2 (by decide)), if_neg (hb 1 (by decide)),
    if_neg (hb 0 (by decide))]

/-- The bytes of a word, joined again. -/
theorem joinBytes (v : Word) :
    v.extractLsb' 24 8 ++ v.extractLsb' 16 8 ++ v.extractLsb' 8 8 ++ v.extractLsb' 0 8 = v := by
  apply BitVec.eq_of_getLsbD_eq
  intro i hi
  simp only [BitVec.getLsbD_append, BitVec.getLsbD_extractLsb']
  have : i < 32 := by omega
  split_ifs with h1 h2 h3
  · simp [h1]
  · have e : 8 + (i - 8) = i := by omega
    simp [h2, e]
  · have e : 16 + (i - 8 - 8) = i := by omega
    simp [h3, e]
  · have e : 24 + (i - 8 - 8 - 8) = i := by omega
    have l : i - 8 - 8 - 8 < 8 := by omega
    simp [l, e]

@[simp] theorem readWord_writeWord_same (m : Memory) (wa : Nat) (v : Word) : readWord (writeWord m wa v) wa = some v := by
  simp only [readWord, readByte_writeWord, byteAddr]
  simp [joinBytes]

theorem readWord_writeWord_ne (m : Memory) (wa wb : Nat) (v : Word) (h : wb ≠ wa) :
    readWord (writeWord m wa v) wb = readWord m wb := by
  have out : ∀ b, b < 4 → readByte (writeWord m wa v) (byteAddr wb b) = readByte m (byteAddr wb b) := fun b hb =>
    readByte_writeWord_outside _ _ _ _ (by simp only [byteAddr]; omega)
  simp only [readWord, out 0 (by decide), out 1 (by decide), out 2 (by decide), out 3 (by decide)]

/-! ### Reads (R73, R83) -/

/-- A read of a written word that races with no write returns the word (R73, R90). -/
@[simp] theorem readResult_some_nil (v : Word) (d : Nat) : readResult (some v) [] d = v := rfl

@[simp] theorem readDraws_some_nil (v : Word) : readDraws (some v) [] = false := rfl

/-- A read of a word nothing has written, that races with no write, returns a free word (R73). -/
theorem readResult_none_nil (d : Nat) : readResult none [] d = Config.freeWord (d + 1) := by
  simp [readResult, readDrawn, Nat.mod_one]

/-- What a read returns is the word in memory, or the old or the new word of a write it races with, each of them free
where it is not written (R73, R83). -/
theorem readResult_mem (cur : Option Word) (olds : List (Option Word)) (d : Nat) :
    ∃ x ∈ cur :: olds, readResult cur olds d = x.getD (Config.freeWord (d + 1)) := by
  have key : ∃ x ∈ cur :: olds, readDrawn cur olds d = x.getD (Config.freeWord (d + 1)) := by
    have hl : Config.freeNat d % (olds.length + 1) < (cur :: olds).length := Nat.mod_lt _ (Nat.succ_pos _)
    refine ⟨(cur :: olds)[Config.freeNat d % (olds.length + 1)], List.getElem_mem hl, ?_⟩
    rw [readDrawn, List.getD_eq_getElem _ _ hl]
  unfold readResult
  split
  · exact ⟨_, List.mem_cons_self, rfl⟩
  · exact key

/-! ### Races (R83) -/

theorem WriteRec.races_iff {who : Agent} {t : TileId} {wa : Nat} {r : WriteRec} :
    r.races who t wa = true ↔ (r.t = t ∧ r.wa = wa) ∧ ¬ (who ∈ r.known ∨ who ∈ r.overBy) := by
  simp only [WriteRec.races, Bool.and_eq_true, decide_eq_true_eq, not_or, and_assoc]

/-- A read races with no write exactly where, of every write recorded at that word, the reader is ordered after it or has
written the word since. -/
theorem racingWords_nil {who : Agent} {t : TileId} {wa : Nat} {ws : List WriteRec} :
    racingWords who t wa ws = [] ↔ ∀ r ∈ ws, r.t = t → r.wa = wa → who ∈ r.known ∨ who ∈ r.overBy := by
  simp only [racingWords, List.flatMap_eq_nil_iff, List.mem_filter, WriteRec.races_iff]
  constructor
  · intro h r hr ht hw
    by_contra hn
    exact absurd (h r ⟨hr, ⟨ht, hw⟩, hn⟩) (by simp)
  · rintro h r ⟨hr, ⟨ht, hw⟩, hn⟩
    exact absurd (h r hr ht hw) hn

/-- The writer of a word races with no write of that word (R90). -/
theorem racingWords_noteWrite_self (who : Agent) (t : TileId) (wa : Nat) (old : Option Word) (v : Word)
    (ws : List WriteRec) : racingWords who t wa (noteWrite who t wa old v ws) = [] := by
  rw [racingWords_nil]
  intro r hr ht hw
  simp only [noteWrite, List.mem_append, List.mem_map, List.mem_singleton] at hr
  rcases hr with ⟨x, -, rfl⟩ | rfl
  · refine .inr ?_
    simp only [WriteRec.overwrite] at ht hw ⊢
    split
    · exact List.mem_cons_self
    · rename_i h; simp only [ht, hw, true_and, Decidable.not_not] at h; exact h
  · exact .inl List.mem_cons_self

/-- A write orders nobody after an earlier write: any other agent's read of the word races with what it raced with before,
and with this write (R83). -/
theorem racingWords_noteWrite_other {who a : Agent} (ha : a ≠ who) (t : TileId) (wa : Nat) (old : Option Word) (v : Word)
    (ws : List WriteRec) : racingWords a t wa (noteWrite who t wa old v ws) = racingWords a t wa ws ++ [old, some v] := by
  have h1 : ((fun r => WriteRec.races a t wa r) ∘ WriteRec.overwrite who t wa) = fun r => r.races a t wa := funext fun r => by
    rw [Function.comp_apply, Bool.eq_iff_iff, WriteRec.races_iff, WriteRec.races_iff]
    simp only [WriteRec.overwrite]
    split <;> simp [ha]
  simp only [racingWords, noteWrite, List.filter_append, List.flatMap_append, List.filter_map, List.flatMap_map, h1]
  simp [WriteRec.races, ha]; rfl

/-- A write at another word, or on another tile, is no race. -/
theorem racingWords_noteWrite_ne (who who' : Agent) (t u : TileId) (wa wb : Nat) (old : Option Word) (v : Word)
    (ws : List WriteRec) (h : u ≠ t ∨ wb ≠ wa) :
    racingWords who u wb (noteWrite who' t wa old v ws) = racingWords who u wb ws := by
  have h1 : ∀ r : WriteRec, (r.overwrite who' t wa).races who u wb = r.races who u wb := fun r => by
    rw [Bool.eq_iff_iff, WriteRec.races_iff, WriteRec.races_iff]
    show (r.t = u ∧ r.wa = wb) ∧ _ ↔ _
    refine and_congr_right ?_
    rintro ⟨ht, hw⟩
    have hn : ¬ (r.t = t ∧ r.wa = wa ∧ who' ∉ r.overBy) := fun ⟨a, b, _⟩ =>
      h.elim (fun h => h (ht.symm.trans a)) fun h => h (hw.symm.trans b)
    simp only [WriteRec.overwrite, hn, if_false]
  simp only [racingWords, noteWrite, List.filter_append, List.flatMap_append, List.filter_map, List.flatMap_map]
  have h2 : ((fun r => WriteRec.races who u wb r) ∘ WriteRec.overwrite who' t wa) = fun r => r.races who u wb := funext h1
  rw [h2]
  have h3 : WriteRec.races who u wb { t := t, wa := wa, old := old, new := v, known := [who'], locks := [], overBy := [] } = false := by
    simp only [WriteRec.races]
    rcases h with h | h <;> simp [Ne.symm h]
  simp [h3]; rfl

/-- After a successful request of a lock, the requester is ordered after what it was ordered after and what the lock
carried, and the lock carries all of that; nobody else's order changes (R83). -/
theorem mem_noteLock {who : Agent} {l : TileId × LockIx} {ws : List WriteRec} {r : WriteRec} (h : r ∈ noteLock who l ws) :
    ∃ x ∈ ws, r = { x with known := r.known, locks := r.locks }
      ∧ (∀ a, a ∈ r.known ↔ a ∈ x.known ∨ (a = who ∧ l ∈ x.locks))
      ∧ ∀ m, m ∈ r.locks ↔ m ∈ x.locks ∨ (m = l ∧ who ∈ r.known) := by
  simp only [noteLock, List.mem_map] at h
  obtain ⟨x, hx, rfl⟩ := h
  refine ⟨x, hx, rfl, fun a => ?_, fun m => ?_⟩
  · simp only [WriteRec.lock]
    split
    · rename_i h; simp only [List.mem_cons, h.1, and_true]; exact or_comm
    · rename_i h
      constructor
      · exact .inl
      · rintro (h' | ⟨rfl, h'⟩)
        · exact h'
        · by_contra hn; exact h ⟨h', hn⟩
  · simp only [WriteRec.lock]
    generalize (if l ∈ x.locks ∧ who ∉ x.known then who :: x.known else x.known) = kn
    by_cases h1 : who ∈ kn
    · by_cases h2 : l ∈ x.locks
      · simp only [h1, h2, not_true_eq_false, and_false, if_false, and_true]
        exact ⟨.inl, fun h => h.elim id fun e => e ▸ h2⟩
      · simp only [h1, h2, not_false_eq_true, and_self, if_true, and_true, List.mem_cons]; exact or_comm
    · simp [h1]

/-- Two successful requests of one lock, of `a` and then of `b`: `b` is ordered after every write `a` was ordered after
(R83). -/
theorem noteLock_noteLock (a b : Agent) (l : TileId × LockIx) (ws : List WriteRec) :
    ∀ r ∈ noteLock b l (noteLock a l ws), a ∈ r.known → b ∈ r.known := by
  intro r hr ha
  obtain ⟨y, hy, -, hk, -⟩ := mem_noteLock hr
  obtain ⟨x, -, -, -, hl⟩ := mem_noteLock hy
  rw [hk] at ha ⊢
  rcases ha with ha | ⟨rfl, ha⟩
  · exact .inr ⟨rfl, (hl l).2 (.inr ⟨rfl, ha⟩)⟩
  · exact .inr ⟨rfl, ha⟩

/-- Data memory after reset is in canonical form. -/
theorem reset_dm_wf (t : TileId) : Memory.wf 8192 ((State.reset.tile t).dm) := by
  revert t; decide

end Sys2Proof.Machine
end

