-- ==== Sys2Proof/Laws/Ops.lean ====
section
/-! SUPPORT. One lemma per shared operation, saying what it can do: lock requests, checks of commands, the kind and index
checks of transactions, queues, and the outcomes of `exec`, of a turn and of a step. -/

namespace Sys2Proof.Machine

/-! ### Outcomes -/

/-- Every instruction answers a next state: faults and refusals are recorded in it (R372, R373). -/
theorem exec_next (i : Instr) (s : State) : ∃ s', exec i s = .next s' := by
  cases i <;> exact ⟨_, rfl⟩

/-- A raw instruction answers a next state, but for a line that is no command. -/
theorem runRaw_next (r : Raw) (s s' : State) (h : runRaw r s = .next s') :
    (∃ i, decode s.params s.kinds r = .ok i ∧ exec i s = .next s')
      ∨ (∃ o, decode s.params s.kinds r = .error (.accessWidth o) ∧ s' = s.raise (.accessWidth o))
      ∨ ∃ o, decode s.params s.kinds r = .error (.unmapped o) ∧ s' = s.raise (.unmapped o) := by
  unfold runRaw at h
  split at h
  · exact .inl ⟨_, ‹_›, h⟩
  · cases h; exact .inr (.inl ⟨_, ‹_›, rfl⟩)
  · cases h; exact .inr (.inr ⟨_, ‹_›, rfl⟩)
  · cases h

/-- A raw instruction never faults: it records its fault and goes on to be stopped (R372). -/
theorem runRaw_ne_fault (r : Raw) (s : State) (f : Fault) : runRaw r s ≠ .fault f := by
  unfold runRaw
  split <;> intro h
  · obtain ⟨s', hs⟩ := exec_next _ s; rw [hs] at h; cases h
  all_goals cases h

/-- What a host operation can do. -/
theorem runOp_next (op : HostOp) (s s' : State) (h : runOp op s = .next s') :
    (∃ r, runRaw r s = .next s')
      ∨ (∃ f, s' = s.raise f)
      ∨ (∃ t off mask expected more s1, op = .pollTry t off mask expected more
          ∧ runRaw (.bus t 32 false off 0) s = .next s1 ∧ s' = afterTry t off mask expected more s1)
      ∨ (∃ e c bd, op = .noteStartBd e c bd
          ∧ s' = s.setEngine e { s.engine e with startBd := (s.engine e).startBd.set c bd })
      ∨ (∃ e, op = .noteReady e ∧ s' = s.setEngine e { s.engine e with ready := true })
      ∨ ∃ r, op = .ret r ∧ s' = s.ret r := by
  cases op with
  | bus t width w off v => exact .inl ⟨_, h⟩
  | mmio addr width w v =>
    simp only [runOp] at h
    split at h
    · exact .inl ⟨_, h⟩
    · cases h; exact .inr (.inl ⟨_, rfl⟩)
  | line l => exact .inl ⟨_, h⟩
  | pollTry t off mask expected more =>
    simp only [runOp] at h
    split at h
    · cases h; exact .inr (.inr (.inl ⟨t, off, mask, expected, more, _, rfl, ‹_›, rfl⟩))
    · cases h
    · cases h
  | noteStartBd e c bd => cases h; exact .inr (.inr (.inr (.inl ⟨e, c, bd, rfl, rfl⟩)))
  | noteReady e => cases h; exact .inr (.inr (.inr (.inr (.inl ⟨e, rfl, rfl⟩))))
  | ret r => cases h; exact .inr (.inr (.inr (.inr (.inr ⟨r, rfl, rfl⟩))))

/-- A step raises the fault that was to be raised and does nothing else, or is one turn (R372, R373). -/
theorem step_next (s s' : State) (h : step s = .next s') :
    s.faults = [] ∧ s.refusal = none
      ∧ ((∃ f, s.pending = some f ∧ s' = { s with pending := none }.raise f)
        ∨ (s.pending = none ∧ runTurn s.takeTurn.1 s.takeTurn.2 = .next s')) := by
  unfold step oneStep at h
  split at h
  · cases h
  · cases h
  · cases h; exact ⟨‹_›, ‹_›, .inl ⟨_, ‹_›, rfl⟩⟩
  · exact ⟨‹_›, ‹_›, .inr ⟨‹_›, h⟩⟩

/-- A turn taken off changes no tile, no host state and no parameter. -/
theorem takeTurn_state (s : State) :
    s.takeTurn.2 = { s with turns := s.takeTurn.2.turns, draws := s.takeTurn.2.draws } := by
  unfold State.takeTurn
  split <;> rfl

/-! ### Checks -/

@[simp] theorem onKind_pos {k : TileKind} {t : TileId} {off : Nat} {s r : State} (h : s.kind t = k) :
    onKind k t off s r = r := by simp [onKind, h]

theorem onKind_neg {k : TileKind} {t : TileId} {off : Nat} {s r : State} (h : s.kind t ≠ k) :
    onKind k t off s r = s.raise (.unmapped off) := by simp [onKind, h]

@[simp] theorem below_pos {i n off : Nat} {s r : State} (h : i < n) : below i n off s r = r := by simp [below, h]

theorem below_neg {i n off : Nat} {s r : State} (h : ¬ i < n) : below i n off s r = s.raise (.unmapped off) := by
  simp [below, h]

@[simp] theorem onEngine_pos {e : TileId} {s k : State} (h : s.kind e = .ct) : onEngine e s k = k := by simp [onEngine, h]

theorem onEngine_neg {e : TileId} {s k : State} (h : s.kind e ≠ .ct) : onEngine e s k = s.refuse .btDma := by
  simp [onEngine, h]

/-- The first failing check of a list is one of its checks, and every check before it holds (R378). -/
theorem firstErr_some {cs : List (Bool × ErrReason)} {e : ErrReason} (h : firstErr cs = some e) :
    ∃ pre post, cs = pre ++ (false, e) :: post ∧ ∀ c ∈ pre, c.1 = true := by
  induction cs with
  | nil => cases h
  | cons c cs ih =>
    obtain ⟨ok, x⟩ := c
    cases ok
    · simp [firstErr] at h; subst h; exact ⟨[], cs, rfl, by simp⟩
    · simp [firstErr] at h
      obtain ⟨pre, post, hp, hc⟩ := ih h
      exact ⟨(true, x) :: pre, post, by simp [hp], by simpa using hc⟩

/-- No check fails exactly where every check holds. -/
theorem firstErr_none {cs : List (Bool × ErrReason)} : firstErr cs = none ↔ ∀ c ∈ cs, c.1 = true := by
  induction cs with
  | nil => simp [firstErr]
  | cons c cs ih => obtain ⟨ok, x⟩ := c; cases ok <;> simp [firstErr, ih]

/-- A command returns the reason of its first failing check and changes nothing else, or does its work (R371). -/
theorem checked_cases (cs : List (Bool × ErrReason)) (s k : State) :
    (∃ e, firstErr cs = some e ∧ checked cs s k = s.ret (.err e)) ∨ (firstErr cs = none ∧ checked cs s k = k) := by
  unfold checked; split
  · exact .inl ⟨_, ‹_›, rfl⟩
  · exact .inr ⟨‹_›, rfl⟩

/-! ### Locks -/

/-- A failed request leaves the lock as it is (R151, R167). -/
theorem lockStep_fail (p : Config.RelFree) (c : Bool) (L : Lock) (q : LockKind) (h : (lockStep p c L q).1 = false) :
    (lockStep p c L q).2 = L := by
  obtain ⟨a, b⟩ := L
  revert h
  cases q with
  | acqV v => cases a <;> cases b <;> cases v <;> simp [lockStep]
  | acqNV => cases a <;> simp [lockStep]
  | relNV => cases a <;> cases p <;> cases c <;> simp [lockStep, relFree]
  | relV v => cases a <;> cases p <;> cases c <;> simp [lockStep, relFree]

/-- A successful acquire takes a free lock, with the value it asked for, and keeps its value (R151). -/
theorem lockStep_acquire (p : Config.RelFree) (c : Bool) (L : Lock) (v : Option Bool) :
    lockStep p c L (v.elim .acqNV .acqV) =
      if L.held = false ∧ (∀ b, v = some b → L.value = b) then (true, ⟨true, L.value⟩) else (false, L) := by
  obtain ⟨h, x⟩ := L
  cases v with
  | none => cases h <;> simp [lockStep]
  | some b => cases h <;> cases x <;> cases b <;> simp [lockStep]

/-- A release of a held lock frees it and stores the value it carries (R151). -/
theorem lockStep_release (p : Config.RelFree) (c : Bool) (L : Lock) (v : Option Bool) (h : L.held = true) :
    lockStep p c L (v.elim .relNV .relV) = (true, ⟨false, v.getD L.value⟩) := by
  obtain ⟨x, y⟩ := L; subst h
  cases v <;> simp [lockStep]

/-- A failed request changes no lock, no memory, and orders nothing: only a drawn choice is spent (R167). -/
theorem lockRequest_fail (s : State) (who : Agent) (t : TileId) (l : LockIx) (q : LockKind) (h : s.lockOk t l q = false) :
    s.lockRequest who t l q = s.drew (if lockDraws s.params.relFree (s.tile t).lock[l] q then 1 else 0) := by
  have h2 := lockStep_fail _ _ _ _ h
  have h1 : (lockStep s.params.relFree (Config.freeBit s.draws) (s.tile t).lock[l] q).1 = false := h
  have hl : (s.tile t).lock.set l (s.tile t).lock[l] = (s.tile t).lock := by simp
  have ht : s.tiles.set t (s.tile t) = s.tiles := by simp [State.tile]
  simp only [State.lockRequest, State.modTile, State.setTile, State.drew, h1, h2, Bool.false_eq_true, if_false, hl, ht]

/-- A request touches no tile's reference, so no tile's kind or layout changes. -/
@[simp] theorem State.lockRequest_kind (s : State) (who : Agent) (t u : TileId) (l : LockIx) (q : LockKind) :
    (s.lockRequest who t l q).kind u = s.kind u := by
  by_cases h : u = t
  · subst h; simp [State.kind]
  · simp [State.kind, h]

/-- A write to data memory touches no tile's reference. -/
@[simp] theorem State.dmWrite_kind (s : State) (who : Agent) (t u : TileId) (wa : Nat) (v : Word) :
    (s.dmWrite who t wa v).kind u = s.kind u := by
  by_cases h : u = t
  · subst h; simp [State.kind]
  · simp [State.kind, h]

/-! ### Data memory -/

/-- The word a read returns is the word in memory, or the old or the new word of a write it races with (R73, R83). -/
theorem State.dmValue_mem (s : State) (who : Agent) (t : TileId) (wa : Nat) :
    ∃ x ∈ readWord (s.tile t).dm wa :: s.racing who t wa,
      s.dmValue who t wa = x.getD (Config.freeWord (s.draws + 1)) := readResult_mem _ _ _

/-- The writer of a word reads it back (R90). -/
theorem State.dmValue_dmWrite (s : State) (who : Agent) (t : TileId) (wa : Nat) (v : Word) :
    (s.dmWrite who t wa v).dmValue who t wa = v ∧ (s.dmWrite who t wa v).dmDrew who t wa = s.dmWrite who t wa v := by
  have h1 : readWord ((s.dmWrite who t wa v).tile t).dm wa = some v := by simp
  have h2 : (s.dmWrite who t wa v).racing who t wa = [] := racingWords_noteWrite_self who t wa _ v s.writes
  simp only [State.dmValue, State.dmDrew, h1, h2]
  exact ⟨rfl, rfl⟩

/-! ### Queues -/

theorem hasSpace_iff (depth : Nat) (q : List StreamWord) : hasSpace depth q = true ↔ q.length < depth := by simp [hasSpace]

@[simp] theorem Tile.pushOut_at (T : Tile) (ms : List MasterId) (w : StreamWord) (m : MasterId) :
    (T.pushOut ms w).outQ[m] = if m ∈ ms then T.outQ[m] ++ [w] else T.outQ[m] := by
  simp [Tile.pushOut]

theorem Tile.spaceAll_iff (T : Tile) (depth : Nat) (ms : List MasterId) :
    T.spaceAll depth ms = true ↔ ∀ m ∈ ms, (T.outQ[m]).length < depth := by simp [Tile.spaceAll, hasSpace]

end Sys2Proof.Machine
end

