-- ==== Sys2Proof/Laws/Frames.lean ====
section
/-! SUPPORT. Frames of the shared operations: what a change of one tile, a lock request, a stored word and a switch step
leave alone, said once for every meaning that uses them. -/

namespace Sys2Proof.Machine

/-- A vector indexed by `Fin`, after one place is set. -/
theorem getElem_set_fin {n : Nat} {α : Type} (v : Vector α n) (i j : Fin n) (x : α) :
    (v.set i x)[j] = if i = j then x else v[j] := by
  simp only [Fin.getElem_fin, Vector.getElem_set, Fin.ext_iff]

/-! ### One tile -/

/-- A change of one tile, with free values drawn, changes that tile only. -/
theorem OnlyTile.mod {s : State} {t : TileId} {f : Tile → Tile} (n : Nat) : OnlyTile t s ((s.modTile t f).drew n) :=
  ⟨rfl, fun _ hu => State.modTile_tile_ne _ _ _ _ hu⟩

/-- A lock request changes its tile and the order of data-memory accesses only. -/
theorem OnlyTileOrder.lockRequest (s : State) (who : Agent) (t : TileId) (l : LockIx) (q : LockKind) :
    OnlyTileOrder t s (s.lockRequest who t l q) := ⟨rfl, fun _ hu => State.lockRequest_tile_ne _ _ _ _ _ _ hu⟩

/-- A data-memory write changes its tile and the order of data-memory accesses only. -/
theorem OnlyTileOrder.dmWrite (s : State) (who : Agent) (t : TileId) (wa : Nat) (v : Word) :
    OnlyTileOrder t s (s.dmWrite who t wa v) := ⟨rfl, fun _ hu => State.dmWrite_tile_ne _ _ _ _ _ _ hu⟩

/-- A change of one tile that leaves its data memory leaves every byte. -/
theorem SameMemory.mod {s : State} {t : TileId} {f : Tile → Tile} (h : ∀ T, (f T).dm = T.dm) (n : Nat) :
    SameMemory s ((s.modTile t f).drew n) := fun u a => by
  show readByte ((s.modTile t f).tile u).dm a = _
  rw [State.modTile_tile]; split
  · rw [h]
  · rfl

/-- A word stored to one tile leaves every other byte. -/
theorem SameMemoryBut.mod {s : State} {t : TileId} {f : Tile → Tile} {wa : Nat} {v : Word}
    (h : ∀ T, (f T).dm = writeWord T.dm wa v) : SameMemoryBut t wa s (s.modTile t f) := fun u a ha => by
  by_cases hu : u = t
  · subst hu; rw [State.modTile_tile_same, h]; exact readByte_writeWord_outside _ _ _ _ (ha rfl)
  · rw [State.modTile_tile_ne _ _ _ _ hu]

/-- A meaning whose effect is a change of one tile that stores nothing. -/
theorem next_mod {i : Instr} {s : State} {t : TileId} (f : Tile → Tile) (n : Nat)
    (h : exec i s = .next ((s.modTile t f).drew n)) (hf : ∀ T, (f T).dm = T.dm) {T' : Tile} (hT : f (s.tile t) = T') :
    ∃ s', exec i s = .next s' ∧ OnlyTile t s s' ∧ SameMemory s s' ∧ s'.tile t = T' :=
  ⟨_, h, OnlyTile.mod n, SameMemory.mod hf n, by show (s.modTile t f).tile t = _; rw [State.modTile_tile_same, hT]⟩

/-! ### Locks -/

/-- The word of a successful request (R133). -/
theorem lockWord_true (p : Config.Params) (k : TileKind) (q : LockKind) : lockWord p k q true = 1#32 <<< lockOkBit p k q := by
  unfold lockWord setField
  apply BitVec.eq_of_toNat_eq
  simp [BitVec.toNat_shiftLeft]

/-- The word of a failed request (R133). -/
theorem lockWord_false (p : Config.Params) (k : TileKind) (q : LockKind) : lockWord p k q false = 0 := by
  unfold lockWord setField; simp

/-- A release that succeeds (R151, R160). -/
theorem lockStep_release_ok (p : Config.RelFree) (c : Bool) (L : Lock) (v : Option Bool)
    (h : L.held = true ∨ p = .succeed ∨ (p = .both ∧ c = true)) :
    lockStep p c L (v.elim .relNV .relV) = (true, ⟨false, v.getD L.value⟩) := by
  obtain ⟨x, y⟩ := L
  rcases h with h | h | ⟨h, h'⟩ <;> cases x <;> cases v <;> simp_all [lockStep, relFree]

/-- A release of a free lock that fails (R160). -/
theorem lockStep_release_fail (p : Config.RelFree) (c : Bool) (L : Lock) (v : Option Bool) (h0 : L.held = false)
    (h : p = .fail ∨ (p = .both ∧ c = false)) : lockStep p c L (v.elim .relNV .relV) = (false, L) := by
  obtain ⟨x, y⟩ := L
  rcases h with h | ⟨h, h'⟩ <;> cases x <;> cases v <;> simp_all [lockStep, relFree]

/-- A lock request stores nothing. -/
theorem SameMemory.lockRequest (s : State) (who : Agent) (t : TileId) (l : LockIx) (q : LockKind) :
    SameMemory s (s.lockRequest who t l q) := fun u a => by
  by_cases hu : u = t
  · subst hu; rw [State.lockRequest_tile_same]
  · rw [State.lockRequest_tile_ne _ _ _ _ _ _ hu]

/-- What a host read at a lock-request offset does (R152). -/
theorem hostLock_facts (s : State) (t : TileId) (l : LockIx) (q : LockKind) :
    let s' := s.hostLock t l q
    let r := lockStep s.params.relFree (Config.freeBit s.draws) (s.tile t).lock[l] q
    OnlyTileRead t s s' ∧ SameMemory s s'
      ∧ s'.writes = (if r.1 then noteLock .host (t, l) s.writes else s.writes)
      ∧ s'.tile t = { s.tile t with lock := (s'.tile t).lock }
      ∧ (∀ l', l' ≠ l → (s'.tile t).lock[l'] = (s.tile t).lock[l'])
      ∧ (s'.tile t).lock[l] = r.2 ∧ s'.host.readData = lockWord s.params (s.kind t) q r.1 := by
  have ht : ∀ u, (s.hostLock t l q).tile u = (s.lockRequest .host t l q).tile u := fun _ => rfl
  refine ⟨⟨rfl, fun u hu => ?_⟩, ?_, rfl, ?_, ?_, ?_, rfl⟩
  · rw [ht, State.lockRequest_tile_ne _ _ _ _ _ _ hu]
  · intro u a; rw [ht]; exact SameMemory.lockRequest s _ t l q u a
  · rw [ht, State.lockRequest_tile_same]
  · intro l' h; rw [ht, State.lockRequest_tile_same]; simp only [getElem_set_fin]; rw [if_neg (Ne.symm h)]
  · rw [ht, State.lockRequest_tile_same]; simp only [getElem_set_fin, if_true]

/-! ### Register reads, walkers and the switch -/

/-- A read returns every field bit, and 0 in every reserved bit last written 0 (R140). -/
theorem readsBack_readBack (mask w : Word) (d : Nat) : ReadsBack mask w (readBack mask w d) := by
  unfold ReadsBack readBack
  split
  · next h =>
    refine ⟨rfl, ?_⟩
    rw [h]; simp
  · constructor <;> (ext i hi; simp; cases w[i] <;> cases mask[i] <;> simp)

/-- A walker in a phase, its channel out of reset, may take a step (R259). -/
theorem walkIn_of {s : State} {t : TileId} {c : ChIx} {ph : Phase} (hk : s.kind t = .ct)
    (hp : (s.tile t).walker[c].phase = ph) (hr : ((s.tile t).ctrl[c]).val.getLsbD (s.layout t).ctrlReset = false) : s.walkIn t c ph = true := by
  simp only [State.walkIn, hk, State.walker, hp, beq_self_eq_true, Bool.true_and, ctrlReset, State.ctrl, getBit]
  simpa using hr

/-- A switch that may raise no configuration fault takes its step. -/
theorem switchStep_none {t : TileId} {s : State} {k : State → State}
    (h : (s.tile t).switchFaults s.params = []) : switchStep t s k = k s := by
  unfold switchStep; rw [h]

/-- The ports below a bound (R305). -/
theorem mem_portsBelow {n : Nat} {x : Fin 128} : x ∈ portsBelow n ↔ x.val < n := by simp [portsBelow]

/-- The masters of a kind are the ids below its count (R305). -/
theorem mem_masters {q : Config.Params} {k : TileKind} {m : MasterId} : m ∈ masters q k ↔ m.val < q.nMasters k := mem_portsBelow

/-- The masters of a packet are free for slave `p` exactly where no other slave is in the midst of a packet to one of
them (R84, R356). -/
theorem Tile.mastersFree_iff {T : Tile} {p : SlaveId} {r : PktRoute} :
    T.mastersFree p r = true ↔
      ∀ (x : SlaveId) y, x ≠ p → T.pktRoute[x] = some y → y.first = false → ∀ m ∈ y.targets, m ∉ r.targets := by
  simp only [Tile.mastersFree, List.all_eq_true, List.mem_finRange, forall_const, Bool.or_eq_true, beq_iff_eq]
  refine forall_congr' fun x => ?_
  constructor
  · rintro (h | h) y hx hy hf m hm hr
    · exact hx h
    · rw [hy] at h
      simp only [hf, Bool.false_or, List.all_eq_true, Bool.not_eq_true', List.contains_eq_mem, decide_eq_false_iff_not] at h
      exact h m hm hr
  · intro h
    by_cases hx : x = p
    · exact .inl hx
    · refine .inr ?_
      split
      · rename_i y hy
        cases hf : y.first with
        | true => rfl
        | false =>
          simp only [Bool.false_or, List.all_eq_true, Bool.not_eq_true', List.contains_eq_mem, decide_eq_false_iff_not]
          exact h y hx hy hf
      · rfl

end Sys2Proof.Machine
end

