-- ==== Sys2Proof/Laws/Moves.lean ====
section
/-! SUPPORT. What one instruction can do to a tile and to the machine, said once: every change of a tile is one of the moves
below, with the conditions it is made under.  Invariants are proved over the moves, not over the 65 meanings. -/

namespace Sys2Proof.Machine

/-- The changes one step can make to a tile of a machine with parameters `p`. -/
inductive TileMove (p : Config.Params) (T : Tile) : Tile → Prop
  /-- registers, locks and the model's records; no queue, memory, walker, control register or route -/
  | other (bdw abCur lock mcfg scfg slot envData) :
      TileMove p T { T with bdw := bdw, abCur := abCur, lock := lock, mcfg := mcfg, scfg := scfg, slot := slot,
                            envData := envData }
  | mem (wa v) (hw : wa < p.dmWords) : TileMove p T { T with dm := writeWord T.dm wa v }
  | ctrl (c v) : TileMove p T (T.writeCtrl (T.layout p) c v)
  | startBd (c v) (hi : (T.walker[c]).phase = .idle) : TileMove p T (T.writeStartBd c v)
  | start (c) (hr : ctrlReset (T.layout p) T.ctrl[c].val = false) (hp : (T.walker[c]).phase = .idle) :
      TileMove p T (T.setWalker c { T.walker[c] with
        cur := startBdField (T.layout p) T.startBd[c].val, startPending := false, phase := .fetch })
  | abandon (c) : TileMove p T (T.setWalker c { T.walker[c] with phase := .idle, snap := none, done := 0 })
  | fetch (c b buf) (hr : ctrlReset (T.layout p) T.ctrl[c].val = false) (hp : (T.walker[c]).phase = .fetch) (hb : HwBd.Runnable b buf) :
      TileMove p T (T.setWalker c { T.walker[c] with snap := some b, buf := buf, done := 0, phase := .acquire })
  | acquire (c b lock) (hr : ctrlReset (T.layout p) T.ctrl[c].val = false) (hp : (T.walker[c]).phase = .acquire)
      (hs : (T.walker[c]).snap = some b) :
      TileMove p T { T.setWalker c { T.walker[c] with phase := afterAcquire c b } with lock := lock }
  | header (c b h) (hr : ctrlReset (T.layout p) T.ctrl[c].val = false) (hp : (T.walker[c]).phase = .header)
      (hs : (T.walker[c]).snap = some b) (hq : (T.inQ[p.channelSlave c]).length < p.portDepth) :
      TileMove p T ((T.pushIn (p.channelSlave c) h).setWalker c { T.walker[c] with phase := .transfer })
  | send (c b w) (hr : ctrlReset (T.layout p) T.ctrl[c].val = false) (hp : (T.walker[c]).phase = .transfer)
      (hs : (T.walker[c]).snap = some b) (hq : (T.inQ[p.channelSlave c]).length < p.portDepth) :
      TileMove p T ((T.pushIn (p.channelSlave c) w).setWalker c ((T.walker[c]).moved b))
  | store (c b wa v) (hr : ctrlReset (T.layout p) T.ctrl[c].val = false) (hp : (T.walker[c]).phase = .transfer)
      (hs : (T.walker[c]).snap = some b) (hw : wa < p.dmWords) :
      TileMove p T ((Tile.popOut { T with dm := writeWord T.dm wa v } (p.channelMaster c)).setWalker c ((T.walker[c]).moved b))
  | release (c b lock) (hr : ctrlReset (T.layout p) T.ctrl[c].val = false) (hp : (T.walker[c]).phase = .release)
      (hs : (T.walker[c]).snap = some b) :
      TileMove p T { T.setWalker c { T.walker[c] with phase := .advance } with lock := lock }
  | advance (c b enable abCur) (hr : ctrlReset (T.layout p) T.ctrl[c].val = false) :
      TileMove p T { T.setWalker c ((T.walker[c]).advanced enable b) with abCur := abCur }
  | circuit (q : SlaveId) (w) (hq : T.spaceAll p.portDepth (T.circuitTargets p q) = true) :
      TileMove p T ((T.popIn q).pushOut (T.circuitTargets p q) w)
  | pktStart (q : SlaveId) (a ms) (hn : T.pktRoute[q] = none) (ht : T.packetTargets p a ms ≠ []) :
      TileMove p T { T with pktRoute := T.pktRoute.set q (some ⟨T.packetTargets p a ms, a, true⟩) }
  | forward (q : SlaveId) (r w) (hr : T.pktRoute[q] = some r) (ha : T.arbFree r.arb q = true)
      (hm : T.mastersFree q r = true) (hq : T.spaceAll p.portDepth (T.receivers p r) = true) :
      TileMove p T (T.forward p q r w)
  | push (q : SlaveId) (w) (hq : (T.inQ[q]).length < p.portDepth) : TileMove p T (T.pushIn q w)
  | pop (m d) : TileMove p T { T.popOut m with drained := d }

/-- The tiles after an instruction: each is as before or has made one move, and the parameters are as before. -/
def Moved (s s' : State) : Prop :=
  s'.params = s.params ∧ ∀ u, s'.tile u = s.tile u ∨ TileMove s.params (s.tile u) (s'.tile u)

theorem Moved.same {s s' : State} (hp : s'.params = s.params) (ht : s'.tiles = s.tiles) : Moved s s' :=
  ⟨hp, fun u => .inl (by simp only [State.tile, ht])⟩

theorem Moved.tile {s s' : State} (t : TileId) (hp : s'.params = s.params) (hu : ∀ u, u ≠ t → s'.tile u = s.tile u)
    (ht : s'.tile t = s.tile t ∨ TileMove s.params (s.tile t) (s'.tile t)) : Moved s s' := by
  refine ⟨hp, fun u => ?_⟩
  by_cases h : u = t
  · subst h; exact ht
  · exact .inl (hu u h)

/-- A move of tile `t` made by `modTile`, some free values drawn. -/
theorem Moved.mod {s : State} (t : TileId) (f : Tile → Tile) (h : TileMove s.params (s.tile t) (f (s.tile t))) :
    Moved s (s.modTile t f) :=
  Moved.tile t rfl (fun u hu => by simp [hu]) (.inr (by simpa using h))

theorem Moved.drew {s s' : State} (n : Nat) (h : Moved s s') : Moved s (s'.drew n) := h

theorem Moved.hostReads {s s' : State} (w : Word) (h : Moved s s') : Moved s (s'.hostReads w) := h

theorem Moved.refl (s : State) : Moved s s := Moved.same rfl rfl

theorem Moved.onKind {s r : State} (k : TileKind) (t : TileId) (off : Nat) (h : Moved s r) :
    Moved s (onKind k t off s r) := by
  unfold Machine.onKind; split
  · exact h
  · exact Moved.same rfl rfl

theorem Moved.below {s r : State} (i n off : Nat) (h : Moved s r) : Moved s (below i n off s r) := by
  unfold Machine.below; split
  · exact h
  · exact Moved.same rfl rfl

/-- A transaction at a data-memory word, made inside the memory only. -/
theorem Moved.onWord {s r : State} (t : TileId) (wa : Nat) (h : wa < s.params.dmWords → Moved s r) :
    Moved s (onWord t wa s r) := by
  unfold Machine.onWord
  refine Moved.onKind _ _ _ ?_
  unfold Machine.below; split
  · exact h ‹_›
  · exact Moved.same rfl rfl

/-- A lock request moves only locks and records. -/
theorem Moved.lockRequest (s : State) (who : Agent) (t : TileId) (l : LockIx) (q : LockKind) :
    Moved s (s.lockRequest who t l q) :=
  Moved.tile t rfl (fun u hu => by simp [hu]) (.inr (by
    rw [State.lockRequest_tile_same]
    exact .other (s.tile t).bdw (s.tile t).abCur _ (s.tile t).mcfg (s.tile t).scfg (s.tile t).slot (s.tile t).envData))

/-- A transaction of the lock region moves only locks and records. -/
theorem Moved.lockRead (k : TileKind) (t : TileId) (l : LockIx) (q : LockKind) (s : State) : Moved s (lockRead k t l q s) :=
  Moved.onKind _ _ _ (Moved.lockRequest s .host t l q)

/-- A command that only returns, queues operations, or changes an engine moves no tile. -/
theorem Moved.checked {s k : State} (cs : List (Bool × ErrReason)) (h : Moved s k) : Moved s (checked cs s k) := by
  rcases checked_cases cs s k with ⟨e, -, he⟩ | ⟨-, hk⟩
  · rw [he]; exact Moved.same rfl rfl
  · rw [hk]; exact h

theorem Moved.onEngine {s k : State} (e : TileId) (h : Moved s k) : Moved s (onEngine e s k) := by
  unfold Machine.onEngine; split
  · exact h
  · exact Moved.same rfl rfl

theorem Moved.runSub (c : SubCommand) (s : State) : Moved s (runSub c s) := by
  unfold Machine.runSub; split <;> exact Moved.same rfl rfl

theorem Moved.setter (e : TileId) (n : Nat) (cs) (f : MirrorBd → MirrorBd) (s : State) : Moved s (setter e n cs f s) :=
  Moved.onEngine _ (Moved.checked _ (Moved.same rfl rfl))

theorem Moved.lockCommand (a : Bool) (t : TileId) (l : Nat) (v : ValArg) (n : Nat) (s : State) :
    Moved s (lockCommand a t l v n s) := Moved.checked _ (Moved.same rfl rfl)

/-- A switch step is a fault or the step itself, after at most one draw. -/
theorem switchStep_cases (t : TileId) (s : State) (k : State → State) :
    switchStep t s k = k s ∨ switchStep t s k = k (s.drew 1) ∨
      ∃ f, switchStep t s k = s.raise f ∧ f ∈ (s.tile t).switchFaults s.params := by
  unfold switchStep
  split
  · exact .inl rfl
  · rename_i f fs heq
    split
    · refine .inr (.inr ⟨_, rfl, ?_⟩)
      rw [heq, List.getD_eq_getElem?_getD]
      rcases h : (f :: fs)[Config.freeNat (s.draws + 1) % (fs.length + 1)]? with _ | x
      · simp
      · simpa using List.mem_of_getElem? h
    · exact .inr (.inl rfl)

theorem Moved.switchStep (t : TileId) (s : State) (k : State → State) (h : ∀ n, Moved (s.drew n) (k (s.drew n))) :
    Moved s (switchStep t s k) := by
  rcases switchStep_cases t s k with e | e | ⟨f, e, -⟩ <;> rw [e]
  · exact h 0
  · exact h 1
  · exact Moved.same rfl rfl

theorem Moved.circuitMove (t : TileId) (p : SlaveId) (s : State) : Moved s (circuitMove t p s) := by
  unfold Machine.circuitMove
  split
  · rename_i w _ _ hr
    refine Moved.mod t _ (.circuit p w ?_)
    simp only [Tile.circuitReady, Bool.and_eq_true] at hr
    exact hr.2
  · exact Moved.refl s

theorem Moved.packetStart (t : TileId) (p : SlaveId) (s : State) : Moved s (packetStart t p s) := by
  unfold Machine.packetStart
  simp only
  split
  · exact Moved.refl s
  · split
    · rename_i hc
      simp only [Bool.and_eq_true, Option.isNone_iff_eq_none] at hc
      unfold startPacket
      simp only
      split
      · exact Moved.same rfl rfl
      · exact Moved.same rfl rfl
      · split
        · exact Moved.same rfl rfl
        · split
          · exact Moved.same rfl rfl
          · rename_i h
            exact Moved.drew _ (Moved.mod t (fun T => { T with pktRoute := T.pktRoute.set p (some ⟨(s.tile t).packetTargets s.params _ _, _, true⟩) })
              (.pktStart p _ _ hc.2 (by simpa using h)))
    · exact Moved.refl s

theorem Moved.packetForward (t : TileId) (p : SlaveId) (s : State) : Moved s (packetForward t p s) := by
  unfold Machine.packetForward
  simp only
  split
  · split
    · rename_i w _ r _ hr hc
      simp only [Tile.forwardReady, Bool.and_eq_true] at hc
      exact Moved.mod t _ (.forward p r w hr hc.1.1.2 hc.1.2 hc.2)
    · exact Moved.refl s
  · exact Moved.refl s

/-- A data-memory write inside the memory moves only that memory. -/
theorem Moved.dmWrite (s : State) (who : Agent) (t : TileId) (wa : Nat) (v : Word) (hw : wa < s.params.dmWords) :
    Moved s (s.dmWrite who t wa v) :=
  Moved.tile t rfl (fun u hu => by simp [hu]) (.inr (by rw [State.dmWrite_tile_same]; exact .mem wa v hw))

theorem Moved.envAct (t : TileId) (act : EnvAction) (s : State) (hw : act.wf s.params (s.kind t) = true) :
    Moved s (envAct t s act) := by
  cases act with
  | push p w =>
    unfold Machine.envAct; simp only
    split
    · rename_i h; exact Moved.mod t _ (.push p w ((hasSpace_iff _ _).1 h))
    · exact Moved.refl s
  | pop m =>
    unfold Machine.envAct; simp only
    split
    · exact Moved.refl s
    · exact Moved.mod t _ (.pop m _)
  | lock who l q =>
    refine Moved.tile t rfl (fun u hu => by simp [Machine.envAct, hu]) (.inr ?_)
    simp only [Machine.envAct, State.modTile_tile_same, State.lockRequest_tile_same]
    exact .other (s.tile t).bdw (s.tile t).abCur _ (s.tile t).mcfg (s.tile t).scfg (s.tile t).slot _
  | read who wa =>
    refine Moved.tile t rfl (fun u hu => by simp [Machine.envAct, hu]) (.inr ?_)
    simp only [Machine.envAct, State.modTile_tile_same, State.dmDrew_tile]
    exact .other (s.tile t).bdw (s.tile t).abCur (s.tile t).lock (s.tile t).mcfg (s.tile t).scfg (s.tile t).slot
      _
  | write who wa v =>
    simp only [EnvAction.wf, Bool.and_eq_true, decide_eq_true_eq] at hw
    exact Moved.dmWrite s _ t wa v hw.2

/-- A walker of a tile in phase `ph` and not held in reset. -/
theorem walkIn_iff {s : State} {t : TileId} {c : ChIx} {ph : Phase} (h : s.walkIn t c ph = true) :
    s.kind t = .ct ∧ ((s.tile t).walker[c]).phase = ph ∧ ctrlReset (s.layout t) (s.tile t).ctrl[c].val = false := by
  simp only [State.walkIn, Bool.and_eq_true, beq_iff_eq, Bool.not_eq_true'] at h
  exact ⟨h.1.1, h.1.2, h.2⟩

theorem Moved.walkStart (t : TileId) (c : ChIx) (s s' : State) (h : execWalkStart t c s = .next s') : Moved s s' := by
  unfold execWalkStart at h; cases h
  split
  · rename_i hc
    simp only [Bool.and_eq_true] at hc
    obtain ⟨-, hp, hr⟩ := walkIn_iff hc.1.1
    exact Moved.mod t _ (.start c hr hp)
  · exact Moved.refl s

theorem Moved.walkAbandon (t : TileId) (c : ChIx) (s s' : State) (h : execWalkAbandon t c s = .next s') : Moved s s' := by
  unfold execWalkAbandon at h; cases h
  split
  · exact Moved.mod t _ (.abandon c)
  · exact Moved.refl s

theorem Moved.walkFetch (t : TileId) (c : ChIx) (s s' : State) (h : execWalkFetch t c s = .next s') : Moved s s' := by
  unfold execWalkFetch at h; cases h
  split
  · rename_i hc
    obtain ⟨-, hp, hr⟩ := walkIn_iff hc
    unfold fetchBd
    simp only
    split
    · exact Moved.same rfl rfl
    · split
      · exact Moved.same rfl rfl
      · split
        · exact Moved.same rfl rfl
        · split
          · exact Moved.same rfl rfl
          · rename_i h1 h2 h3
            refine Moved.mod t _ (.fetch c _ _ hr hp ⟨?_, ?_, ?_, ?_⟩)
            · simpa using h1
            · simpa using h2
            · simpa using h3
            · intro h; exact if_neg fun hh => absurd (h.symm.trans hh) (by decide)
  · exact Moved.refl s

theorem Moved.walkAcquire (t : TileId) (c : ChIx) (s s' : State) (h : execWalkAcquire t c s = .next s') : Moved s s' := by
  unfold execWalkAcquire at h; cases h
  split
  · rename_i b hc hs
    obtain ⟨-, hp, hr⟩ := walkIn_iff hc
    unfold acquireBd
    simp only
    split
    · exact Moved.mod t _ (.acquire c b (s.tile t).lock hr hp hs)
    · split
      · refine Moved.tile t rfl (fun u hu => by simp [hu]) (.inr ?_)
        simp only [State.setWalker_tile_same, State.lockRequest_tile_same]
        exact .acquire c b _ hr hp hs
      · exact Moved.refl s
  · exact Moved.refl s

theorem Moved.walkHeader (t : TileId) (c : ChIx) (s s' : State) (h : execWalkHeader t c s = .next s') : Moved s s' := by
  unfold execWalkHeader at h; cases h
  split
  · rename_i b hc hs
    obtain ⟨-, hp, hr⟩ := walkIn_iff hc
    unfold sendHeader
    simp only
    split
    · rename_i hq
      simp only [Bool.and_eq_true] at hq
      exact Moved.mod t _ (.header c b _ hr hp hs ((hasSpace_iff _ _).1 hq.2))
    · exact Moved.refl s
  · exact Moved.refl s

theorem Moved.walkTransfer (t : TileId) (c : ChIx) (s s' : State) (h : execWalkTransfer t c s = .next s') : Moved s s' := by
  unfold execWalkTransfer at h; cases h
  split
  · rename_i b hc hs
    obtain ⟨-, hp, hr⟩ := walkIn_iff hc
    split
    · unfold sendWord
      simp only
      split
      · rename_i hq
        split
        · exact Moved.same rfl rfl
        · refine Moved.tile t rfl (fun u hu => by simp [hu]) (.inr ?_)
          simp only [State.modTile_tile_same, State.dmDrew_tile]
          exact .send c b _ hr hp hs ((hasSpace_iff _ _).1 hq)
      · exact Moved.refl s
    · unfold storeWord
      simp only
      split
      · exact Moved.refl s
      · split
        · exact Moved.same rfl rfl
        · rename_i hw
          refine Moved.tile t rfl (fun u hu => by simp [hu]) (.inr ?_)
          simp only [State.modTile_tile_same, State.dmWrite_tile_same]
          exact .store c b _ _ hr hp hs (Nat.lt_of_not_le hw)
  · exact Moved.refl s

theorem Moved.walkRelease (t : TileId) (c : ChIx) (s s' : State) (h : execWalkRelease t c s = .next s') : Moved s s' := by
  unfold execWalkRelease at h; cases h
  split
  · rename_i b hc hs
    obtain ⟨-, hp, hr⟩ := walkIn_iff hc
    unfold releaseBd
    simp only
    split
    · exact Moved.mod t _ (.release c b (s.tile t).lock hr hp hs)
    · split
      · refine Moved.tile t rfl (fun u hu => by simp [hu]) (.inr ?_)
        simp only [State.setWalker_tile_same, State.lockRequest_tile_same]
        exact .release c b _ hr hp hs
      · exact Moved.lockRequest ..
  · exact Moved.refl s

theorem Moved.walkAdvance (t : TileId) (c : ChIx) (s s' : State) (h : execWalkAdvance t c s = .next s') : Moved s s' := by
  unfold execWalkAdvance at h; cases h
  split
  · rename_i b hc hs
    obtain ⟨-, -, hr⟩ := walkIn_iff hc
    exact Moved.mod t _ (.advance c b _ _ hr)
  · exact Moved.refl s

/-- Registers of a tile written: no queue, memory, walker, control register or route changes. -/
theorem Moved.regs (s : State) (t : TileId) (bdw abCur lock mcfg scfg slot) :
    Moved s (s.modTile t fun T => { T with bdw := bdw, abCur := abCur, lock := lock, mcfg := mcfg, scfg := scfg, slot := slot }) :=
  Moved.mod t _ (.other bdw abCur lock mcfg scfg slot (s.tile t).envData)

/-- Every instruction makes at most one move on each tile, and keeps the parameters. -/
theorem exec_moved (i : Instr) (s s' : State) (h : exec i s = .next s') : Moved s s' := by
  cases i with
  | dmWr t wa v => cases h; exact Moved.onWord t wa fun hw => Moved.dmWrite s .host t wa v hw
  | dmRd t wa => cases h; exact Moved.onWord t wa fun _ => Moved.same rfl rfl
  | bdWr t n k v =>
    cases h; refine Moved.onKind _ _ _ ?_
    have := Moved.regs s t ((s.tile t).writeBd n k v).bdw ((s.tile t).writeBd n k v).abCur (s.tile t).lock (s.tile t).mcfg
      (s.tile t).scfg (s.tile t).slot
    split <;> exact this
  | bdRd t n k => cases h; refine Moved.onKind _ _ _ ?_; split <;> exact Moved.same rfl rfl
  | chCtrlWr t c v => cases h; exact Moved.onKind _ _ _ (Moved.mod t _ (.ctrl _ _))
  | chCtrlRd t c => cases h; exact Moved.onKind _ _ _ (Moved.same rfl rfl)
  | chStartBdWr t c v =>
    cases h; refine Moved.onKind _ _ _ ?_
    split
    · exact Moved.same rfl rfl
    · rename_i hp; exact Moved.mod t _ (.startBd c v (by simpa using hp))
  | chStartBdRd t c => cases h; exact Moved.onKind _ _ _ (Moved.same rfl rfl)
  | chStatusRd t i => cases h; exact Moved.onKind _ _ _ (Moved.same rfl rfl)
  | chStatusWr t i v => cases h; exact Moved.onKind _ _ _ (Moved.same rfl rfl)
  | lockAcqNvRd t l => cases h; exact Moved.lockRead ..
  | lockAcqV0Rd t l => cases h; exact Moved.lockRead ..
  | lockAcqV1Rd t l => cases h; exact Moved.lockRead ..
  | lockRelNvRd t l => cases h; exact Moved.lockRead ..
  | lockRelV0Rd t l => cases h; exact Moved.lockRead ..
  | lockRelV1Rd t l => cases h; exact Moved.lockRead ..
  | lockWr t l op v => cases h; exact Moved.onKind _ _ _ (Moved.below _ _ _ (Moved.same rfl rfl))
  | lockAcqNvRdBt t l => cases h; exact Moved.lockRead ..
  | lockAcqV0RdBt t l => cases h; exact Moved.lockRead ..
  | lockAcqV1RdBt t l => cases h; exact Moved.lockRead ..
  | lockRelNvRdBt t l => cases h; exact Moved.lockRead ..
  | lockRelV0RdBt t l => cases h; exact Moved.lockRead ..
  | lockRelV1RdBt t l => cases h; exact Moved.lockRead ..
  | lockWrBt t l op v => cases h; exact Moved.onKind _ _ _ (Moved.below _ _ _ (Moved.same rfl rfl))
  | mcfgWr t m v =>
    cases h
    exact Moved.below _ _ _ (Moved.regs s t (s.tile t).bdw (s.tile t).abCur (s.tile t).lock _ (s.tile t).scfg (s.tile t).slot)
  | mcfgRd t m => cases h; exact Moved.below _ _ _ (Moved.same rfl rfl)
  | scfgWr t p v =>
    cases h
    exact Moved.below _ _ _ (Moved.regs s t (s.tile t).bdw (s.tile t).abCur (s.tile t).lock (s.tile t).mcfg _ (s.tile t).slot)
  | scfgRd t p => cases h; exact Moved.below _ _ _ (Moved.same rfl rfl)
  | slotWr t p k v =>
    cases h
    exact Moved.below _ _ _ (Moved.regs s t (s.tile t).bdw (s.tile t).abCur (s.tile t).lock (s.tile t).mcfg (s.tile t).scfg _)
  | slotRd t p k => cases h; exact Moved.below _ _ _ (Moved.same rfl rfl)
  | walkStart t c => exact Moved.walkStart t c s s' h
  | walkAbandon t c => exact Moved.walkAbandon t c s s' h
  | walkFetch t c => exact Moved.walkFetch t c s s' h
  | walkAcquire t c => exact Moved.walkAcquire t c s s' h
  | walkHeader t c => exact Moved.walkHeader t c s s' h
  | walkTransfer t c => exact Moved.walkTransfer t c s s' h
  | walkRelease t c => exact Moved.walkRelease t c s s' h
  | walkAdvance t c => exact Moved.walkAdvance t c s s' h
  | swCircuit t p => cases h; exact Moved.switchStep t s _ fun n => Moved.circuitMove t p _
  | swPktStart t p => cases h; exact Moved.switchStep t s _ fun n => Moved.packetStart t p _
  | swPktForward t p => cases h; exact Moved.switchStep t s _ fun n => Moved.packetForward t p _
  | envStep t act =>
    cases h
    split
    · exact Moved.envAct t act s ‹_›
    · exact Moved.refl s
  | poll t off mask expected timeout => cases h; exact Moved.same rfl rfl
  | lockAcquire t l v timeout => cases h; exact Moved.lockCommand ..
  | lockRelease t l v timeout => cases h; exact Moved.lockCommand ..
  | bdSetLock e n x lockId relEn relVal acqEn acqVal => cases h; exact Moved.setter ..
  | bdSet2D e n axis incr wrap offset => cases h; exact Moved.setter ..
  | bdSetInterleave e n en which count current => cases h; exact Moved.setter ..
  | bdSetAddrLenMode e n baseA baseB lengthBytes dbEn fifoMode => cases h; exact Moved.setter ..
  | bdSetNext e n next => cases h; exact Moved.setter ..
  | bdSetPacket e n en type id => cases h; exact Moved.setter ..
  | bdClear e n => cases h; exact Moved.setter ..
  | bdClearAll e => cases h; exact Moved.onEngine _ (Moved.same rfl rfl)
  | bdCommit e n => cases h; exact Moved.onEngine _ (Moved.checked _ (Moved.same rfl rfl))
  | chControl e c reset enable => cases h; exact Moved.onEngine _ (Moved.runSub ..)
  | chSetStartBd e c bd => cases h; exact Moved.onEngine _ (Moved.runSub ..)
  | chReset e c => cases h; exact Moved.onEngine _ (Moved.checked _ (Moved.same rfl rfl))
  | chResetAll e => cases h; exact Moved.onEngine _ (Moved.same rfl rfl)
  | dmaInitialize e force =>
    cases h; refine Moved.onEngine _ (Moved.checked _ ?_)
    split <;> exact Moved.same rfl rfl
  | ssPortId kind dir cls i => cases h; exact Moved.same rfl rfl
  | ssConfigureMaster t cls i en pktEn cfg => cases h; exact Moved.runSub ..
  | ssConfigureSlave t cls i en pktEn => cases h; exact Moved.runSub ..
  | ssConnectCircuit t scls si mcls mi enSlave => cases h; exact Moved.checked _ (Moved.same rfl rfl)
  | ssConfigureSlot t cls i k en id mask msel arb => cases h; exact Moved.runSub ..
  | ssMstrPktConfig drop mask arb => cases h; exact Moved.checked _ (Moved.same rfl rfl)

/-- A step makes at most one move on each tile, and keeps the parameters. -/
theorem step_moved (s s' : State) (h : step s = .next s') : Moved s s' := by
  obtain ⟨-, -, ⟨f, -, rfl⟩ | ⟨-, h⟩⟩ := step_next s s' h
  · exact Moved.same rfl rfl
  have hr : ∀ (r : Raw) (a b : State), runRaw r a = .next b → Moved a b := by
    intro r a b h
    rcases runRaw_next r a b h with ⟨i, -, hi⟩ | ⟨o, -, rfl⟩ | ⟨o, -, rfl⟩
    · exact exec_moved i a b hi
    · exact Moved.same rfl rfl
    · exact Moved.same rfl rfl
  have key : Moved s.takeTurn.2 s' := by
    cases hu : s.takeTurn.1 with
    | agent a => rw [hu] at h; simp only [runTurn] at h; exact hr _ _ _ h
    | host =>
      rw [hu] at h
      simp only [runTurn, hostTurn] at h
      split at h
      · cases h; exact Moved.refl _
      · rename_i op q hq
        suffices Moved (s.takeTurn.2.setQueue q) s' from this
        have := runOp_next op _ _ h
        rcases this with ⟨r, h⟩ | ⟨f, rfl⟩ | ⟨t, off, m, x, k, s1, -, h1, rfl⟩ | ⟨e, c, b, -, rfl⟩ | ⟨e, -, rfl⟩ | ⟨r, -, rfl⟩
        · exact hr _ _ _ h
        · exact Moved.same rfl rfl
        · have := hr _ _ _ h1
          unfold afterTry
          split
          · exact this
          · split
            · exact this
            · split <;> exact this
        all_goals exact Moved.same rfl rfl
  rw [takeTurn_state s] at key
  exact key

end Sys2Proof.Machine
end

