-- ==== Sys2Proof/Laws/Operands.lean ====
section
/-! SUPPORT. The register field codec bit by bit (R110, R111): what each bit of a packed field is, and what an unpacked field
reads. -/

namespace Sys2Proof.Machine

/-- Bit `i` of a packed field. -/
theorem getLsbD_setField (v lsb w i : Nat) :
    (setField v lsb w).getLsbD i = (decide (i < 32 ∧ lsb ≤ i ∧ i < lsb + w) && v.testBit (i - lsb)) := by
  simp only [setField, BitVec.getLsbD_shiftLeft, BitVec.getLsbD_ofNat, Nat.testBit_mod_two_pow]
  by_cases h1 : i < 32
  · by_cases h2 : lsb ≤ i
    · by_cases h3 : i < lsb + w
      · have e1 : i - lsb < 32 := by omega
        have e2 : i - lsb < w := by omega
        simp [h1, h2, h3, Nat.not_lt.2 h2, e1, e2]
      · have e2 : ¬ i - lsb < w := by omega
        simp [h3, e2]
    · simp [h2, Nat.lt_of_not_le h2]
  · simp [h1]

/-- Bit `i` of an unpacked field. -/
theorem getLsbD_getField (x : Word) (lsb w i : Nat) :
    (getField x lsb w).getLsbD i = (decide (i < w) && x.getLsbD (lsb + i)) := by
  rw [getField, BitVec.getLsbD_ofNat, Nat.testBit_shiftRight, BitVec.testBit_toNat]

/-- A one-bit field reads its bit. -/
theorem getBit_setField (v lsb w i : Nat) :
    getBit (setField v lsb w) i = (decide (i < 32 ∧ lsb ≤ i ∧ i < lsb + w) && v.testBit (i - lsb)) :=
  getLsbD_setField v lsb w i

theorem getBit_or (x y : Word) (i : Nat) : getBit (x ||| y) i = (getBit x i || getBit y i) := BitVec.getLsbD_or

/-- Fields combined with `|` unpack separately. -/
theorem getField_or (x y : Word) (lsb w : Nat) : getField (x ||| y) lsb w = getField x lsb w ||| getField y lsb w := by
  apply BitVec.eq_of_getLsbD_eq
  intro i hi
  rw [BitVec.getLsbD_or, getLsbD_getField, getLsbD_getField, getLsbD_getField, BitVec.getLsbD_or, Bool.and_or_distrib_left]

/-- The field that was packed. -/
theorem getField_setField_same (v lsb w : Nat) (h : lsb + w ≤ 32) : getField (setField v lsb w) lsb w = BitVec.ofNat w v := by
  apply BitVec.eq_of_getLsbD_eq
  intro i hi
  have e1 : lsb + i < 32 ∧ lsb ≤ lsb + i ∧ lsb + i < lsb + w := by omega
  have e2 : lsb + i - lsb = i := by omega
  rw [getLsbD_getField, getLsbD_setField, BitVec.getLsbD_ofNat, e2, decide_eq_true e1]; simp

/-- A field at a disjoint range reads nothing of it. -/
theorem getField_setField_disjoint (v lsb w lsb' w' : Nat) (h : lsb + w ≤ lsb' ∨ lsb' + w' ≤ lsb) :
    getField (setField v lsb w) lsb' w' = 0 := by
  apply BitVec.eq_of_getLsbD_eq
  intro i hi
  have e1 : ¬ (lsb' + i < 32 ∧ lsb ≤ lsb' + i ∧ lsb' + i < lsb + w) := by omega
  rw [getLsbD_getField, getLsbD_setField, decide_eq_false e1]; simp

end Sys2Proof.Machine
end

