-- ==== Sys2Proof/Laws/PerInstr.lean ====
section
/-! SUPPORT. A statement per instruction: what its encoding is. -/

namespace Sys2Proof.Laws.EncodeAligned

open Config (Params)

/-- A well-formed transaction is encoded as one aligned 32-bit access, inside the register space, of the tile it touches
(R33, R71, R101), a command as the line of its own name (R146), an agent's step as that agent's turn. -/
def Statement (i : Instr) : Prop :=
  ∀ (q : Params) (kind : TileId → TileKind), q.IsMap → i.wf q kind = true →
    match encode q kind i with
    | .bus t width w off v =>
      width = 32 ∧ (off < 2 ^ q.wOff ∧ off % 4 = 0) ∧ i.touches = some t ∧ (w = false → v = 0)
    | .line l => l.name = i.mnemonic ∧ i.touches = none
    | .agent a => decodeAgent a = i ∧ i.touches ≠ none

/-- A register the tile has stands inside the register space, at an aligned offset (R33). -/
theorem plain {q : Params} (hq : q.IsMap) (k : TileKind) (r : Reg) (h : r.mapped q k = true)
    (hl : ∀ l op, r ≠ .lock l op) : r.off (q.layout k) < 2 ^ q.wOff ∧ r.off (q.layout k) % 4 = 0 :=
  ⟨hq.inside k r h, hq.aligned k r h fun l op e => absurd e (hl l op)⟩

/-- A lock request stands inside the register space, at an aligned offset (R103, R164). -/
theorem request {q : Params} (hq : q.IsMap) (k : TileKind) (l : LockIx) (a : LockKind) :
    lockOff (q.layout k) l a < 2 ^ q.wOff ∧ lockOff (q.layout k) l a % 4 = 0 := by
  have hm : Reg.mapped q k (.lock l (lockOp (q.layout k) a)) = true := decide_eq_true (hq.lockOps k a).1
  exact ⟨hq.inside k _ hm, hq.aligned k _ hm fun _ _ e => by injection e with _ e; subst e; exact (hq.lockOps k a).2⟩

/-- A place of the lock-request region (R103, R161). -/
theorem region {q : Params} (hq : q.IsMap) (k : TileKind) (l : LockIx) (op : Nat) (h : op < (q.layout k).lockStride)
    (h4 : op % 4 = 0) : lockRegionOff (q.layout k) l op < 2 ^ q.wOff ∧ lockRegionOff (q.layout k) l op % 4 = 0 :=
  ⟨hq.inside k (.lock l op) (decide_eq_true h), hq.aligned k (.lock l op) (decide_eq_true h) fun _ _ e => by
    injection e with _ e; subst e; exact h4⟩

theorem dmWr (t : TileId) (wa : Nat) (v : Word) :
    Statement (.dmWr t wa v) := by
  intro q kind hq h; exact ⟨rfl, plain hq _ (.dm wa) h nofun, rfl, nofun⟩

theorem dmRd (t : TileId) (wa : Nat) :
    Statement (.dmRd t wa) := by
  intro q kind hq h; exact ⟨rfl, plain hq _ (.dm wa) h nofun, rfl, fun _ => rfl⟩

theorem bdWr (t : TileId) (n : BdIx) (k : BdWordIx) (v : Word) :
    Statement (.bdWr t n k v) := by
  intro q kind hq h; exact ⟨rfl, plain hq _ (.bd n k) h nofun, rfl, nofun⟩

theorem bdRd (t : TileId) (n : BdIx) (k : BdWordIx) :
    Statement (.bdRd t n k) := by
  intro q kind hq h; exact ⟨rfl, plain hq _ (.bd n k) h nofun, rfl, fun _ => rfl⟩

theorem chCtrlWr (t : TileId) (c : ChIx) (v : Word) :
    Statement (.chCtrlWr t c v) := by
  intro q kind hq h; exact ⟨rfl, plain hq _ (.ctrl c) h nofun, rfl, nofun⟩

theorem chCtrlRd (t : TileId) (c : ChIx) :
    Statement (.chCtrlRd t c) := by
  intro q kind hq h; exact ⟨rfl, plain hq _ (.ctrl c) h nofun, rfl, fun _ => rfl⟩

theorem chStartBdWr (t : TileId) (c : ChIx) (v : Word) :
    Statement (.chStartBdWr t c v) := by
  intro q kind hq h; exact ⟨rfl, plain hq _ (.startBd c) h nofun, rfl, nofun⟩

theorem chStartBdRd (t : TileId) (c : ChIx) :
    Statement (.chStartBdRd t c) := by
  intro q kind hq h; exact ⟨rfl, plain hq _ (.startBd c) h nofun, rfl, fun _ => rfl⟩

theorem chStatusRd (t : TileId) (i : Fin 2) :
    Statement (.chStatusRd t i) := by
  intro q kind hq h; exact ⟨rfl, plain hq _ (.status i) h nofun, rfl, fun _ => rfl⟩

theorem chStatusWr (t : TileId) (i : Fin 2) (v : Word) :
    Statement (.chStatusWr t i v) := by
  intro q kind hq h; exact ⟨rfl, plain hq _ (.status i) h nofun, rfl, nofun⟩

theorem lockAcqNvRd (t : TileId) (l : LockIx) :
    Statement (.lockAcqNvRd t l) := by
  intro q kind hq _; exact ⟨rfl, request hq _ l _, rfl, fun _ => rfl⟩

theorem lockAcqV0Rd (t : TileId) (l : LockIx) :
    Statement (.lockAcqV0Rd t l) := by
  intro q kind hq _; exact ⟨rfl, request hq _ l _, rfl, fun _ => rfl⟩

theorem lockAcqV1Rd (t : TileId) (l : LockIx) :
    Statement (.lockAcqV1Rd t l) := by
  intro q kind hq _; exact ⟨rfl, request hq _ l _, rfl, fun _ => rfl⟩

theorem lockRelNvRd (t : TileId) (l : LockIx) :
    Statement (.lockRelNvRd t l) := by
  intro q kind hq _; exact ⟨rfl, request hq _ l _, rfl, fun _ => rfl⟩

theorem lockRelV0Rd (t : TileId) (l : LockIx) :
    Statement (.lockRelV0Rd t l) := by
  intro q kind hq _; exact ⟨rfl, request hq _ l _, rfl, fun _ => rfl⟩

theorem lockRelV1Rd (t : TileId) (l : LockIx) :
    Statement (.lockRelV1Rd t l) := by
  intro q kind hq _; exact ⟨rfl, request hq _ l _, rfl, fun _ => rfl⟩

theorem lockWr (t : TileId) (l : LockIx) (op : Nat) (v : Word) :
    Statement (.lockWr t l op v) := by
  intro q kind hq h
  simp only [Instr.wf, Bool.and_eq_true, beq_iff_eq, decide_eq_true_eq] at h
  exact ⟨rfl, region hq _ l op (by rw [h.1.1]; exact h.1.2) h.2, rfl, nofun⟩

theorem lockAcqNvRdBt (t : TileId) (l : LockIx) :
    Statement (.lockAcqNvRdBt t l) := by
  intro q kind hq _; exact ⟨rfl, request hq _ l _, rfl, fun _ => rfl⟩

theorem lockAcqV0RdBt (t : TileId) (l : LockIx) :
    Statement (.lockAcqV0RdBt t l) := by
  intro q kind hq _; exact ⟨rfl, request hq _ l _, rfl, fun _ => rfl⟩

theorem lockAcqV1RdBt (t : TileId) (l : LockIx) :
    Statement (.lockAcqV1RdBt t l) := by
  intro q kind hq _; exact ⟨rfl, request hq _ l _, rfl, fun _ => rfl⟩

theorem lockRelNvRdBt (t : TileId) (l : LockIx) :
    Statement (.lockRelNvRdBt t l) := by
  intro q kind hq _; exact ⟨rfl, request hq _ l _, rfl, fun _ => rfl⟩

theorem lockRelV0RdBt (t : TileId) (l : LockIx) :
    Statement (.lockRelV0RdBt t l) := by
  intro q kind hq _; exact ⟨rfl, request hq _ l _, rfl, fun _ => rfl⟩

theorem lockRelV1RdBt (t : TileId) (l : LockIx) :
    Statement (.lockRelV1RdBt t l) := by
  intro q kind hq _; exact ⟨rfl, request hq _ l _, rfl, fun _ => rfl⟩

theorem lockWrBt (t : TileId) (l : LockIx) (op : Nat) (v : Word) :
    Statement (.lockWrBt t l op v) := by
  intro q kind hq h
  simp only [Instr.wf, Bool.and_eq_true, beq_iff_eq, decide_eq_true_eq] at h
  exact ⟨rfl, region hq _ l op (by rw [h.1.1]; exact h.1.2) h.2, rfl, nofun⟩

theorem mcfgWr (t : TileId) (m : MasterId) (v : Word) :
    Statement (.mcfgWr t m v) := by
  intro q kind hq h; exact ⟨rfl, plain hq _ (.mcfg m) h nofun, rfl, nofun⟩

theorem mcfgRd (t : TileId) (m : MasterId) :
    Statement (.mcfgRd t m) := by
  intro q kind hq h; exact ⟨rfl, plain hq _ (.mcfg m) h nofun, rfl, fun _ => rfl⟩

theorem scfgWr (t : TileId) (p : SlaveId) (v : Word) :
    Statement (.scfgWr t p v) := by
  intro q kind hq h; exact ⟨rfl, plain hq _ (.scfg p) h nofun, rfl, nofun⟩

theorem scfgRd (t : TileId) (p : SlaveId) :
    Statement (.scfgRd t p) := by
  intro q kind hq h; exact ⟨rfl, plain hq _ (.scfg p) h nofun, rfl, fun _ => rfl⟩

theorem slotWr (t : TileId) (p : SlaveId) (k : SlotIx) (v : Word) :
    Statement (.slotWr t p k v) := by
  intro q kind hq h; exact ⟨rfl, plain hq _ (.slot p k) h nofun, rfl, nofun⟩

theorem slotRd (t : TileId) (p : SlaveId) (k : SlotIx) :
    Statement (.slotRd t p k) := by
  intro q kind hq h; exact ⟨rfl, plain hq _ (.slot p k) h nofun, rfl, fun _ => rfl⟩

theorem walkStart (t : TileId) (c : ChIx) :
    Statement (.walkStart t c) := by
  intro _ _ _ _; exact ⟨rfl, nofun⟩

theorem walkAbandon (t : TileId) (c : ChIx) :
    Statement (.walkAbandon t c) := by
  intro _ _ _ _; exact ⟨rfl, nofun⟩

theorem walkFetch (t : TileId) (c : ChIx) :
    Statement (.walkFetch t c) := by
  intro _ _ _ _; exact ⟨rfl, nofun⟩

theorem walkAcquire (t : TileId) (c : ChIx) :
    Statement (.walkAcquire t c) := by
  intro _ _ _ _; exact ⟨rfl, nofun⟩

theorem walkHeader (t : TileId) (c : ChIx) :
    Statement (.walkHeader t c) := by
  intro _ _ _ _; exact ⟨rfl, nofun⟩

theorem walkTransfer (t : TileId) (c : ChIx) :
    Statement (.walkTransfer t c) := by
  intro _ _ _ _; exact ⟨rfl, nofun⟩

theorem walkRelease (t : TileId) (c : ChIx) :
    Statement (.walkRelease t c) := by
  intro _ _ _ _; exact ⟨rfl, nofun⟩

theorem walkAdvance (t : TileId) (c : ChIx) :
    Statement (.walkAdvance t c) := by
  intro _ _ _ _; exact ⟨rfl, nofun⟩

theorem swCircuit (t : TileId) (p : SlaveId) :
    Statement (.swCircuit t p) := by
  intro _ _ _ _; exact ⟨rfl, nofun⟩

theorem swPktStart (t : TileId) (p : SlaveId) :
    Statement (.swPktStart t p) := by
  intro _ _ _ _; exact ⟨rfl, nofun⟩

theorem swPktForward (t : TileId) (p : SlaveId) :
    Statement (.swPktForward t p) := by
  intro _ _ _ _; exact ⟨rfl, nofun⟩

theorem envStep (t : TileId) (act : EnvAction) :
    Statement (.envStep t act) := by
  intro _ _ _ _; exact ⟨rfl, nofun⟩

theorem poll (t : TileId) (off : Nat) (mask expected timeout : Nat) :
    Statement (.poll t off mask expected timeout) := by
  intro _ _ _ _; exact ⟨rfl, rfl⟩

theorem lockAcquire (t : TileId) (l : Nat) (v : ValArg) (timeout : Nat) :
    Statement (.lockAcquire t l v timeout) := by
  intro _ _ _ _; exact ⟨rfl, rfl⟩

theorem lockRelease (t : TileId) (l : Nat) (v : ValArg) (timeout : Nat) :
    Statement (.lockRelease t l v timeout) := by
  intro _ _ _ _; exact ⟨rfl, rfl⟩

theorem bdSetLock (e : TileId) (n : Nat) (x : SlotArg) (lockId relEn : Nat) (relVal : ValArg) (acqEn : Nat) (acqVal : ValArg) :
    Statement (.bdSetLock e n x lockId relEn relVal acqEn acqVal) := by
  intro _ _ _ _; exact ⟨rfl, rfl⟩

theorem bdSet2D (e : TileId) (n : Nat) (axis : AxisArg) (incr wrap offset : Nat) :
    Statement (.bdSet2D e n axis incr wrap offset) := by
  intro _ _ _ _; exact ⟨rfl, rfl⟩

theorem bdSetInterleave (e : TileId) (n en : Nat) (which : SlotArg) (count current : Nat) :
    Statement (.bdSetInterleave e n en which count current) := by
  intro _ _ _ _; exact ⟨rfl, rfl⟩

theorem bdSetAddrLenMode (e : TileId) (n baseA baseB lengthBytes dbEn fifoMode : Nat) :
    Statement (.bdSetAddrLenMode e n baseA baseB lengthBytes dbEn fifoMode) := by
  intro _ _ _ _; exact ⟨rfl, rfl⟩

theorem bdSetNext (e : TileId) (n next : Nat) :
    Statement (.bdSetNext e n next) := by
  intro _ _ _ _; exact ⟨rfl, rfl⟩

theorem bdSetPacket (e : TileId) (n en type id : Nat) :
    Statement (.bdSetPacket e n en type id) := by
  intro _ _ _ _; exact ⟨rfl, rfl⟩

theorem bdClear (e : TileId) (n : Nat) :
    Statement (.bdClear e n) := by
  intro _ _ _ _; exact ⟨rfl, rfl⟩

theorem bdClearAll (e : TileId) :
    Statement (.bdClearAll e) := by
  intro _ _ _ _; exact ⟨rfl, rfl⟩

theorem bdCommit (e : TileId) (n : Nat) :
    Statement (.bdCommit e n) := by
  intro _ _ _ _; exact ⟨rfl, rfl⟩

theorem chControl (e : TileId) (c reset enable : Nat) :
    Statement (.chControl e c reset enable) := by
  intro _ _ _ _; exact ⟨rfl, rfl⟩

theorem chSetStartBd (e : TileId) (c bd : Nat) :
    Statement (.chSetStartBd e c bd) := by
  intro _ _ _ _; exact ⟨rfl, rfl⟩

theorem chReset (e : TileId) (c : Nat) :
    Statement (.chReset e c) := by
  intro _ _ _ _; exact ⟨rfl, rfl⟩

theorem chResetAll (e : TileId) :
    Statement (.chResetAll e) := by
  intro _ _ _ _; exact ⟨rfl, rfl⟩

theorem dmaInitialize (e : TileId) (force : Nat) :
    Statement (.dmaInitialize e force) := by
  intro _ _ _ _; exact ⟨rfl, rfl⟩

theorem ssPortId (kind : TileKind) (dir : PortDir) (cls : PortClass) (i : Nat) :
    Statement (.ssPortId kind dir cls i) := by
  intro _ _ _ _; exact ⟨rfl, rfl⟩

theorem ssConfigureMaster (t : TileId) (cls : PortClass) (i en pktEn cfg : Nat) :
    Statement (.ssConfigureMaster t cls i en pktEn cfg) := by
  intro _ _ _ _; exact ⟨rfl, rfl⟩

theorem ssConfigureSlave (t : TileId) (cls : PortClass) (i en pktEn : Nat) :
    Statement (.ssConfigureSlave t cls i en pktEn) := by
  intro _ _ _ _; exact ⟨rfl, rfl⟩

theorem ssConnectCircuit (t : TileId) (scls : PortClass) (si : Nat) (mcls : PortClass) (mi enSlave : Nat) :
    Statement (.ssConnectCircuit t scls si mcls mi enSlave) := by
  intro _ _ _ _; exact ⟨rfl, rfl⟩

theorem ssConfigureSlot (t : TileId) (cls : PortClass) (i k en id mask msel arb : Nat) :
    Statement (.ssConfigureSlot t cls i k en id mask msel arb) := by
  intro _ _ _ _; exact ⟨rfl, rfl⟩

theorem ssMstrPktConfig (drop mask arb : Nat) :
    Statement (.ssMstrPktConfig drop mask arb) := by
  intro _ _ _ _; exact ⟨rfl, rfl⟩

end Sys2Proof.Laws.EncodeAligned
end

