-- ==== Sys2Proof/Tests/Slice0.lean ====
section
/-! SUPPORT. Tests.  Expected results are taken from the worked examples and vectors of spec/95_test_vectors.md (cited by
section) or computed by hand from the rules; a `witness_` theorem shows that the hypotheses of a statement can be met. -/

namespace Sys2Proof.Tests

open Sys2Proof.Machine

/-! ### Helpers -/

/-- The kinds of the reference fabric. -/
def kinds : TileId → TileKind := State.reset.kinds

/-- The state an instruction leads to. -/
def after (i : Instr) (s : State) : State :=
  match exec i s with
  | .next s' => s'
  | _ => s

/-- The state one step leads to. -/
def stepped (s : State) : State :=
  match step s with
  | .next s' => s'
  | _ => s

/-- The state `n` host turns lead to. -/
def hosted (n : Nat) (s : State) : State :=
  match hostRun n s with
  | .next s' => s'
  | _ => s

/-- The reset state with tile 0 changed. -/
def onTile (f : Tile → Tile) : State := State.reset.modTile 0 f

/-- Tile 0 with lock 3 in a given state. -/
def locked (held value : Bool) : State := onTile fun T => { T with lock := T.lock.set 3 ⟨held, value⟩ }

/-- Tile 1 (a boundary tile) with lock 3 in a given state. -/
def lockedBt (held value : Bool) : State := State.reset.modTile 1 fun T => { T with lock := T.lock.set 3 ⟨held, value⟩ }

/-- The words of BD 4 of vector 2.4.3. -/
def bd4 : Vector Word 7 := #v[0x00FD0400, 0x01640800, 0x00FF0001, 0xFFFF0100, 0x00002011, 0x00000000, 0xC802E03F]

/-- The words of a one-word descriptor at word address 0x10 that ends its chain (R202). -/
def bdPlain : Vector Word 7 := #v[0x00000010, 0x00000000, 0x00FF0001, 0xFFFF0100, 0x00000000, 0x00000000, 0x80000000]

/-- Tile 0 with the words of BD `n` written. -/
def withBd (n : BdIx) (w : Vector Word 7) (T : Tile) : Tile :=
  { T with bdw := T.bdw.set n (Vector.ofFn fun k : BdWordIx => ⟨w[k], true⟩) }

/-- Tile 0 with channel `c` enabled and its walker in a given condition. -/
def walking (c : ChIx) (ph : Phase) (cur : BdIx) (snap : Option HwBd) (done : Nat) (T : Tile) : Tile :=
  { T with ctrl := T.ctrl.set c ⟨1, true⟩, walker := T.walker.set c ⟨ph, cur, snap, .a, done, false⟩ }

/-- A fetched descriptor, from its words. -/
def snapOf (w : Vector Word 7) : Option HwBd := some (unpackBd .reference w)

/-- Master 20 takes slave 7 in circuit mode, slave 7 is enabled, and a word waits at slave 7 (vector 2.10). -/
def circuit (T : Tile) : Tile :=
  { T with
    mcfg := T.mcfg.set 20 ⟨0x80000007, true⟩
    scfg := T.scfg.set 7 ⟨0x80000000, true⟩
    inQ := T.inQ.set 7 [⟨5, false⟩] }

/-- Slave 7 in packet mode with the two slots of vector 2.12.1, masters 15 and 20 of vector 2.12.2, and a header. -/
def packets (h : Word) (T : Tile) : Tile :=
  { T with
    mcfg := (T.mcfg.set 15 ⟨0xC0000025, true⟩).set 20 ⟨0xC00000A5, true⟩
    scfg := T.scfg.set 7 ⟨0xC0000000, true⟩
    slot := T.slot.set 7 #v[⟨0x10100101, true⟩, ⟨0x031F0125, true⟩, ⟨0, true⟩, ⟨0, true⟩]
    inQ := T.inQ.set 7 [⟨h, false⟩, ⟨1, true⟩] }

/-- The packet of vector 2.12.3 in flight at slave 7. -/
def inFlight (first : Bool) (T : Tile) : Tile :=
  { packets 0x2003 T with
    pktRoute := T.pktRoute.set 7 (some ⟨[15, 20], 5, first⟩)
    arbOwner := if first then T.arbOwner else T.arbOwner.set 5 (some 7) }

/-- The reset state with the host's program and its next turn set. -/
def hostNext (q : List HostOp) : State := { State.reset with turns := [.host], host := { State.reset.host with queue := q } }

/-! ### Well-formedness: an ill-formed term for each check -/

/-- Every compute-tile transaction on the boundary tile is refused (R101, R141). -/
theorem test_wf_refuses_ct_rows_on_bt :
    ∀ i ∈ ([.dmWr 1 0 0, .dmRd 1 0, .bdWr 1 0 0 0, .bdRd 1 0 0, .chCtrlWr 1 0 0, .chCtrlRd 1 0, .chStartBdWr 1 0 0,
      .chStartBdRd 1 0, .chStatusRd 1 0, .chStatusWr 1 0 0, .lockAcqNvRd 1 0, .lockAcqV0Rd 1 0, .lockAcqV1Rd 1 0,
      .lockRelNvRd 1 0, .lockRelV0Rd 1 0, .lockRelV1Rd 1 0, .lockWr 1 0 0 0] : List Instr), i.wf .reference kinds = false := by
  decide

/-- Every boundary-tile transaction on the compute tile is refused (R101). -/
theorem test_wf_refuses_bt_rows_on_ct :
    ∀ i ∈ ([.lockAcqNvRdBt 0 0, .lockAcqV0RdBt 0 0, .lockAcqV1RdBt 0 0, .lockRelNvRdBt 0 0, .lockRelV0RdBt 0 0,
      .lockRelV1RdBt 0 0, .lockWrBt 0 0 0 0] : List Instr), i.wf .reference kinds = false := by
  decide

/-- A lock-region write at a sub-offset that is no multiple of 4 is refused (R71). -/
theorem test_wf_refuses_lock_suboffset : Instr.wf .reference kinds (.lockWr 0 0 2 0) = false ∧ Instr.wf .reference kinds (.lockWrBt 1 0 1 0) = false := by
  decide

/-- Ports a tile does not have are refused (R305): 24 slaves and 23 masters on a boundary tile. -/
theorem test_wf_refuses_ports :
    ∀ i ∈ ([.mcfgWr 1 23 0, .mcfgRd 1 24, .scfgWr 1 24 0, .scfgRd 1 26, .slotWr 1 24 0 0, .slotRd 1 25 3, .swCircuit 1 24,
      .swPktStart 1 25, .swPktForward 1 26] : List Instr), i.wf .reference kinds = false := by
  decide

/-- Walkers and engines of a boundary tile are refused (R193, R259). -/
theorem test_wf_refuses_dma_on_bt :
    ∀ i ∈ ([.walkStart 1 0, .walkAbandon 1 0, .walkFetch 1 0, .walkAcquire 1 0, .walkHeader 1 0, .walkTransfer 1 0,
      .walkRelease 1 0, .walkAdvance 1 0, .bdSetLock 1 0 .a 0 0 .none 0 .none, .bdSet2D 1 0 .x 1 1 0,
      .bdSetInterleave 1 0 0 .a 0 0, .bdSetAddrLenMode 1 0 0 0 4 0 0, .bdSetNext 1 0 0, .bdSetPacket 1 0 0 0 0, .bdClear 1 0,
      .bdClearAll 1, .bdCommit 1 0, .chControl 1 0 0 0, .chSetStartBd 1 0 0, .chReset 1 0, .chResetAll 1,
      .dmaInitialize 1 0] : List Instr), i.wf .reference kinds = false := by
  decide

/-- Environment actions the tile's environment agents do not have are refused (R314, R34): the walkers' own ports, ports the
tile lacks, data memory of a boundary tile. -/
theorem test_wf_refuses_environment :
    ∀ i ∈ ([.envStep 0 (.push 2 ⟨0, false⟩), .envStep 0 (.push 3 ⟨0, false⟩), .envStep 0 (.pop 2), .envStep 0 (.pop 3),
      .envStep 1 (.push 24 ⟨0, false⟩), .envStep 1 (.pop 23), .envStep 1 (.read .core 0),
      .envStep 1 (.write .neighbour 0 0)] : List Instr), i.wf .reference kinds = false := by
  decide

/-- Well-formed terms are accepted. -/
theorem test_wf_accepts :
    ∀ i ∈ ([.dmWr 0 0x1FFF 0, .lockWr 0 15 0x7C 0, .lockWrBt 1 15 0x7C 0, .mcfgWr 0 24 0, .mcfgWr 1 22 0, .slotWr 0 26 3 0,
      .slotWr 1 23 3 0, .envStep 0 (.push 4 ⟨0, true⟩), .envStep 1 (.pop 2), .walkStart 0 3, .bdCommit 0 16] : List Instr),
      i.wf .reference kinds = true := by
  decide

/-! ### Decoding: words written out from the encoding table of R103 (`W`, the fixed bits, the fields) -/

theorem test_decode_words_dm :
    decodeTableWord 24 0b1_000_1010000000000_00 = some (.dmWr 0 0x1400 0)
    ∧ decodeTableWord 24 0b0_000_1111111111111_00 = some (.dmRd 0 0x1FFF) := by
  decide

theorem test_decode_words_bd :
    decodeTableWord 24 0b1_011101000_1111_110_00 = some (.bdWr 0 15 6 0)
    ∧ decodeTableWord 24 0b0_011101000_0010_001_00 = some (.bdRd 0 2 1) := by
  decide

theorem test_decode_words_channel :
    decodeTableWord 24 0b1_0111011110000_11_0_00 = some (.chCtrlWr 0 3 0)
    ∧ decodeTableWord 24 0b0_0111011110000_01_0_00 = some (.chCtrlRd 0 1)
    ∧ decodeTableWord 24 0b1_0111011110000_10_1_00 = some (.chStartBdWr 0 2 0)
    ∧ decodeTableWord 24 0b0_0111011110000_11_1_00 = some (.chStartBdRd 0 3)
    ∧ decodeTableWord 24 0b0_0111011111000_1_0000 = some (.chStatusRd 0 1)
    ∧ decodeTableWord 24 0b1_0111011111000_0_0000 = some (.chStatusWr 0 0 0) := by
  decide

theorem test_decode_words_lock_ct :
    decodeTableWord 24 0b0_0111100_0011_1000000 = some (.lockAcqNvRd 0 3)
    ∧ decodeTableWord 24 0b0_0111100_0000_1100000 = some (.lockAcqV0Rd 0 0)
    ∧ decodeTableWord 24 0b0_0111100_0100_1110000 = some (.lockAcqV1Rd 0 4)
    ∧ decodeTableWord 24 0b0_0111100_1111_0000000 = some (.lockRelNvRd 0 15)
    ∧ decodeTableWord 24 0b0_0111100_0011_0100000 = some (.lockRelV0Rd 0 3)
    ∧ decodeTableWord 24 0b0_0111100_1100_0110000 = some (.lockRelV1Rd 0 12)
    ∧ decodeTableWord 24 0b1_0111100_0101_1000100 = some (.lockWr 0 5 0x44 0) := by
  decide

theorem test_decode_words_lock_bt :
    decodeTableWord 24 0b0_0101000_1111_1000000 = some (.lockAcqNvRdBt 1 15)
    ∧ decodeTableWord 24 0b0_0101000_0001_1100000 = some (.lockAcqV0RdBt 1 1)
    ∧ decodeTableWord 24 0b0_0101000_0010_1110000 = some (.lockAcqV1RdBt 1 2)
    ∧ decodeTableWord 24 0b0_0101000_0111_0000000 = some (.lockRelNvRdBt 1 7)
    ∧ decodeTableWord 24 0b0_0101000_1000_0100000 = some (.lockRelV0RdBt 1 8)
    ∧ decodeTableWord 24 0b0_0101000_0011_0110000 = some (.lockRelV1RdBt 1 3)
    ∧ decodeTableWord 24 0b1_0101000_1001_1000000 = some (.lockWrBt 1 9 0x40 0) := by
  decide

theorem test_decode_words_switch :
    decodeTableWord 24 0b1_1111110000_010100_00 = some (.mcfgWr 0 20 0)
    ∧ decodeTableWord 24 0b0_1111110000_011000_00 = some (.mcfgRd 0 24)
    ∧ decodeTableWord 24 0b1_1111110001_000111_00 = some (.scfgWr 0 7 0)
    ∧ decodeTableWord 24 0b0_1111110001_011010_00 = some (.scfgRd 0 26)
    ∧ decodeTableWord 24 0b1_111111001_11010_11_00 = some (.slotWr 0 26 3 0)
    ∧ decodeTableWord 24 0b0_111111001_00111_01_00 = some (.slotRd 0 7 1) := by
  decide

/-- Words of vector 2.13, and offsets that no row maps. -/
theorem test_decode_vectors :
    decodeTableWord 24 0x7F3AC = some (.slotWr 0 26 3 0) ∧ decodeTableWord 24 0x1E7F0 = some (.lockAcqV1Rd 0 15)
    ∧ decodeTableWord 24 0x08000 = none ∧ decodeTableWord 24 0x5D1FC = none ∧ decodeTableWord 24 0x1DE20 = none
    ∧ decodeTableWord 24 0x7F3B0 = none
    ∧ decode .reference kinds (.bus 0 32 false 0x08000 0) = .error (.unmapped 0x08000)
    ∧ decode .reference kinds (.bus 0 32 true 0x1D1FC 0) = .error (.unmapped 0x1D1FC)
    ∧ decode .reference kinds (.bus 1 32 false 0x1E000 0) = .error (.unmapped 0x1E000)
    ∧ decode .reference kinds (.bus 0 32 false 0x1E010 0) = .error (.unmapped 0x1E010)
    ∧ decode .reference kinds (.bus 0 32 false 0x1E042 0) = .error (.accessWidth 0x1E042)
    ∧ decode .reference kinds (.bus 0 16 true 0x3F050 0) = .error (.accessWidth 0x3F050) := by
  refine ⟨?_, ?_, ?_, ?_, ?_, ?_, ?_, ?_, ?_, ?_, ?_, ?_⟩ <;> decide

/-- The written form of a transaction (R145) and its value. -/
theorem test_decode_text_transactions :
    rawOfText "wr T, 0x3F050, 0xC00000A5" = some (.bus 0 32 true 0x3F050 0xC00000A5)
    ∧ rawOfText "x = rd T1, 0x14000" = some (.bus 1 32 false 0x14000 0) := by
  constructor <;> decide

/-- What a written line decodes to. -/
def readLine (text : String) : Option Instr :=
  match rawOfText text with
  | some r =>
    match decode .reference kinds r with
    | .ok i => some i
    | .error _ => none
  | none => none

/-- Lines of R146 as spec/95_test_vectors.md writes them: poll and the lock commands. -/
theorem test_decode_lines_lock :
    readLine "poll T, 0x1E1C0, 1, 1, 5" = some (.poll 0 0x1E1C0 1 1 5)
    ∧ readLine "lock.acquire T, 3, none, 0" = some (.lockAcquire 0 3 .none 0)
    ∧ readLine "lock.release T, 4, 0, 0" = some (.lockRelease 0 4 (.num 0) 0) := by
  refine ⟨?_, ?_, ?_⟩ <;> decide

/-- The `bd` lines. -/
theorem test_decode_lines_bd :
    readLine "bd.setLock E, 5, A, 4, 1, 1, 1, none" = some (.bdSetLock 0 5 .a 4 1 (.num 1) 1 .none)
    ∧ readLine "bd.set2D E, 0, Y, 4, 8, 16" = some (.bdSet2D 0 0 .y 4 8 16)
    ∧ readLine "bd.setInterleave E, 0, 1, B, 8, 0" = some (.bdSetInterleave 0 0 1 .b 8 0)
    ∧ readLine "bd.setAddrLenMode E, 1, 0x5000, 0, 2048, 0, 0" = some (.bdSetAddrLenMode 0 1 0x5000 0 2048 0 0)
    ∧ readLine "bd.setNext E, 0, 0xFF" = some (.bdSetNext 0 0 255)
    ∧ readLine "bd.setPacket E, 2, 1, 2, 3" = some (.bdSetPacket 0 2 1 2 3)
    ∧ readLine "bd.clear E, 3" = some (.bdClear 0 3) ∧ readLine "bd.clearAll E" = some (.bdClearAll 0)
    ∧ readLine "bd.commit E, 3" = some (.bdCommit 0 3) := by
  refine ⟨?_, ?_, ?_, ?_, ?_, ?_, ?_, ?_, ?_⟩ <;> decide

/-- The `ch` and `dma` lines. -/
theorem test_decode_lines_channel :
    readLine "ch.control E, S2MM0, 0, 1" = some (.chControl 0 0 0 1)
    ∧ readLine "ch.setStartBd E, MM2S0, 5" = some (.chSetStartBd 0 2 5)
    ∧ readLine "ch.reset E, S2MM1" = some (.chReset 0 1) ∧ readLine "ch.resetAll E" = some (.chResetAll 0)
    ∧ readLine "dma.initialize E, 0" = some (.dmaInitialize 0 0) := by
  refine ⟨?_, ?_, ?_, ?_, ?_⟩ <;> decide

/-- The `ss` lines. -/
theorem test_decode_lines_switch :
    readLine "ss.portId CT, slave, trace, 1" = some (.ssPortId .ct .slave .trace 1)
    ∧ readLine "ss.configureMaster T, (north, 5), 1, 1, 0xA5" = some (.ssConfigureMaster 0 .north 5 1 1 0xA5)
    ∧ readLine "ss.configureSlave T, (dma, 0), 1, 1" = some (.ssConfigureSlave 0 .dma 0 1 1)
    ∧ readLine "ss.connectCircuit T, (south, 0), (dma, 0), 1" = some (.ssConnectCircuit 0 .south 0 .dma 0 1)
    ∧ readLine "ss.configureSlot T, (dma, 0), 0, 1, 3, 0x1F, 2, 5" = some (.ssConfigureSlot 0 .dma 0 0 1 3 0x1F 2 5)
    ∧ readLine "cfgA = ss.mstrPktConfig 0, 0b0100, 5" = some (.ssMstrPktConfig 0 4 5) := by
  refine ⟨?_, ?_, ?_, ?_, ?_, ?_⟩ <;> decide

/-- A line that is no command is refused by name. -/
theorem test_decode_bad_line : decode .reference kinds (.line ⟨"bd.comit", [.eng 0, .num 3]⟩) = .error .badLine := by decide

/-- An agent's turn is the row of its step. -/
theorem test_decode_turns :
    ([.walk 0 0 .start, .walk 0 1 .abandon, .walk 0 2 .fetch, .walk 0 3 .acquire, .walk 0 2 .header, .walk 0 1 .transfer,
      .walk 0 0 .release, .walk 0 1 .advance, .switch 0 7 .circuit, .switch 1 3 .pktStart, .switch 1 4 .pktForward,
      .env 1 (.pop 2)] : List AgentStep).map decodeAgent
    = [.walkStart 0 0, .walkAbandon 0 1, .walkFetch 0 2, .walkAcquire 0 3, .walkHeader 0 2, .walkTransfer 0 1,
      .walkRelease 0 0, .walkAdvance 0 1, .swCircuit 0 7, .swPktStart 1 3, .swPktForward 1 4, .envStep 1 (.pop 2)] := by
  decide

/-- A decoded word that step fetches is run by it. -/
theorem test_fetch_runs_word :
    readWord ((stepped (State.reset.withFetchWord 24 0x45000)).tile 0).dm 0x1400 = some 0 := by decide

/-! ### Single steps: transactions -/

/-- Vector P2 step 2: a word and its lowest byte (R70, R89). -/
theorem test_dmWr :
    readWord ((after (.dmWr 0 0x101 0x0000BEEF) .reset).tile 0).dm 0x101 = some 0x0000BEEF
    ∧ readByte ((after (.dmWr 0 0x101 0x0000BEEF) .reset).tile 0).dm 0x404 = some 0xEF := by decide

/-- A read returns the word written (R90), and the top word is in range (R34). -/
theorem test_dmRd : (after (.dmRd 0 0x1FFF) (after (.dmWr 0 0x1FFF 7) .reset)).host.readData = 7 := by decide

/-- The host reads its own word (R90), though a core's earlier write of the place was not ordered before it; that write still
races with the read of a third agent, also after the host has handed it a lock (R83). -/
theorem test_dmRd_own_write :
    let s := after (.dmWr 0 3 7) (after (.envStep 0 (.write .core 3 9)) (locked true false))
    let u := after (.envStep 0 (.lock .neighbour 3 .acqNV)) (after (.lockRelNvRd 0 3) s)
    s.racing .host 0 3 = [] ∧ s.racing (.core 0) 0 3 = [some 9, some 7] ∧ (after (.dmRd 0 3) s).host.readData = 7
    ∧ s.racing .neighbour 0 3 = [none, some 9, some 9, some 7] ∧ u.racing .neighbour 0 3 = [none, some 9] := by decide

/-- Vector 2.5: a write of word 6 stores it and sets `abCur[1]` to A. -/
theorem test_bdWr :
    let s := after (.bdWr 0 1 6 0x800221FF) (onTile fun T => { T with abCur := T.abCur.set 1 .b })
    ((s.tile 0).bdw[(1 : BdIx)][(6 : BdWordIx)]).val = 0x800221FF ∧ (s.tile 0).abCur[(1 : BdIx)] = .a := by decide

/-- Vector 2.5: a write in use is performed and faults (R269), with the step after it (log 10); one in Fetch does not. -/
theorem test_bdWr_in_use :
    let s := after (.bdWr 0 0 0 9) (onTile (walking 0 .transfer 0 (snapOf bdPlain) 0))
    ((s.tile 0).bdw[(0 : BdIx)][(0 : BdWordIx)]).val = 9 ∧ (stepped s).faults = [.bdInUseWrite 0]
    ∧ (after (.bdWr 0 0 0 0) (onTile (walking 0 .fetch 0 none 0))).pending = none := by decide

/-- Vector 2.5: an unwritten word faults. -/
theorem test_bdRd_unwritten : (after (.bdRd 0 0 0) .reset).faults = [.unwritten 0x1D000] := by decide

/-- Vector 2.5: `rd 0x1D038 -> 0x800221FF`. -/
theorem test_bdRd : (after (.bdRd 0 1 6) (after (.bdWr 0 1 6 0x800221FF) .reset)).host.readData = 0x800221FF := by decide

/-- Vector 2.6: a Reset write makes the walker Idle and clears `startPending`. -/
theorem test_chCtrlWr_reset :
    let s := after (.chCtrlWr 0 0 2) (onTile fun T => T.setWalker 0 ⟨.transfer, 3, snapOf bdPlain, .a, 0, true⟩)
    ((s.tile 0).walker[(0 : ChIx)]) = ⟨.idle, 0, none, .a, 0, false⟩ ∧ ((s.tile 0).ctrl[(0 : ChIx)]).val = 2 := by decide

/-- Vector 2.6: `wr 0x1DE18 := 1; rd 0x1DE18 -> 1`. -/
theorem test_chCtrlRd : (after (.chCtrlRd 0 3) (after (.chCtrlWr 0 3 1) .reset)).host.readData = 1 := by decide

/-- Vector 2.6: `wr 0x1DE14 := 5` sets `startPending(2)`. -/
theorem test_chStartBdWr :
    let s := after (.chStartBdWr 0 2 5) .reset
    ((s.tile 0).startBd[(2 : ChIx)]).val = 5 ∧ ((s.tile 0).walker[(2 : ChIx)]).startPending = true := by decide

/-- Vector 2.6: the write faults while the walker is in Acquire. -/
theorem test_chStartBdWr_busy :
    (after (.chStartBdWr 0 0 3) (onTile (walking 0 .acquire 1 (snapOf bdPlain) 0))).faults = [.startBdBusy 0] := by decide

/-- Vector 2.6: `rd 0x1DE1C -> 0` after power-on. -/
theorem test_chStartBdRd : (after (.chStartBdRd 0 3) .reset).host.readData = 0 := by decide

/-- Vector 2.6: a status read gives any word and spends a draw. -/
theorem test_chStatusRd :
    exec (.chStatusRd 0 0) .reset = .next ((State.reset.hostReads (Config.freeWord 0)).drew 1) := rfl

/-- Vector 2.6: a status write faults. -/
theorem test_chStatusWr : (after (.chStatusWr 0 1 0) .reset).faults = [.reservedWrite 0x1DF10] := by decide

/-- Tile 0's lock 3 and the word returned. -/
def lock3 (i : Instr) (s : State) : Bool × Bool × Word :=
  let s' := after i s
  (((s'.tile 0).lock[(3 : LockIx)]).held, ((s'.tile 0).lock[(3 : LockIx)]).value, s'.host.readData)

/-- Tile 1's lock 3 and the word returned. -/
def lock3Bt (i : Instr) (s : State) : Bool × Bool × Word :=
  let s' := after i s
  (((s'.tile 1).lock[(3 : LockIx)]).held, ((s'.tile 1).lock[(3 : LockIx)]).value, s'.host.readData)

/-- The AcqNV row of table 2.2.1. -/
theorem test_lockAcqNvRd :
    lock3 (.lockAcqNvRd 0 3) (locked false true) = (true, true, 1)
    ∧ lock3 (.lockAcqNvRd 0 3) (locked true false) = (true, false, 0) := by decide

/-- The AcqV0 row of table 2.2.1. -/
theorem test_lockAcqV0Rd :
    lock3 (.lockAcqV0Rd 0 3) (locked false false) = (true, false, 1)
    ∧ lock3 (.lockAcqV0Rd 0 3) (locked false true) = (false, true, 0) := by decide

/-- The AcqV1 row of table 2.2.1 (and scenario 1.9). -/
theorem test_lockAcqV1Rd :
    lock3 (.lockAcqV1Rd 0 3) (locked false true) = (true, true, 1)
    ∧ lock3 (.lockAcqV1Rd 0 3) (locked false false) = (false, false, 0) := by decide

/-- The RelNV row of table 2.2.1, on a held lock. -/
theorem test_lockRelNvRd : lock3 (.lockRelNvRd 0 3) (locked true true) = (false, true, 1) := by decide

/-- The RelV0 row of table 2.2.1, on a held lock. -/
theorem test_lockRelV0Rd : lock3 (.lockRelV0Rd 0 3) (locked true true) = (false, false, 1) := by decide

/-- The RelV1 row of table 2.2.1, on a held lock. -/
theorem test_lockRelV1Rd : lock3 (.lockRelV1Rd 0 3) (locked true false) = (false, true, 1) := by decide

/-- Vector 2.2.3: `wr 0x1E040 := 1`. -/
theorem test_lockWr : (after (.lockWr 0 0 0x40 1) .reset).faults = [.reservedWrite 0x1E040] := by decide

/-- The same rows on a boundary tile. -/
theorem test_lockAcqNvRdBt : lock3Bt (.lockAcqNvRdBt 1 3) (lockedBt false true) = (true, true, 1) := by decide
theorem test_lockAcqV0RdBt : lock3Bt (.lockAcqV0RdBt 1 3) (lockedBt false true) = (false, true, 0) := by decide
theorem test_lockAcqV1RdBt : lock3Bt (.lockAcqV1RdBt 1 3) (lockedBt false true) = (true, true, 1) := by decide
theorem test_lockRelNvRdBt : lock3Bt (.lockRelNvRdBt 1 3) (lockedBt true true) = (false, true, 1) := by decide
theorem test_lockRelV0RdBt : lock3Bt (.lockRelV0RdBt 1 3) (lockedBt true true) = (false, false, 1) := by decide
theorem test_lockRelV1RdBt : lock3Bt (.lockRelV1RdBt 1 3) (lockedBt true false) = (false, true, 1) := by decide
theorem test_lockWrBt : (after (.lockWrBt 1 3 0x30 1) .reset).faults = [.reservedWrite 0x141B0] := by decide

/-- Scenario 1.8 read back: `rd 0x3F050 -> 0x80000007`. -/
theorem test_mcfg : (after (.mcfgRd 0 20) (after (.mcfgWr 0 20 0x80000007) .reset)).host.readData = 0x80000007 := by decide

/-- Scenario 1.8 read back: `rd 0x3F11C -> 0x80000000`. -/
theorem test_scfg : (after (.scfgRd 0 7) (after (.scfgWr 0 7 0x80000000) .reset)).host.readData = 0x80000000 := by decide

/-- Table 1.6, read back. -/
theorem test_slot : (after (.slotRd 0 7 1) (after (.slotWr 0 7 1 0x031F0125) .reset)).host.readData = 0x031F0125 := by decide

/-! ### Single steps: the walker -/

/-- Table 2.7.1: enabled, with a start pending. -/
theorem test_walkStart :
    let s := after (.walkStart 0 0) (onTile fun T =>
      { T with ctrl := T.ctrl.set 0 ⟨1, true⟩, startBd := T.startBd.set 0 ⟨3, true⟩
               walker := T.walker.set 0 ⟨.idle, 0, none, .a, 0, true⟩ })
    (s.tile 0).walker[(0 : ChIx)] = ⟨.fetch, 3, none, .a, 0, false⟩ := by decide

/-- Table 2.7.1: held in reset. -/
theorem test_walkStart_reset :
    let s := onTile fun T =>
      { T with ctrl := T.ctrl.set 0 ⟨3, true⟩, walker := T.walker.set 0 ⟨.idle, 0, none, .a, 0, true⟩ }
    ((after (.walkStart 0 0) s).tile 0).walker = (s.tile 0).walker := by decide

/-- Section 2.7.7: the abandon step gives Idle with no release. -/
theorem test_walkAbandon :
    let s := after (.walkAbandon 0 1) (onTile fun T =>
      { T with walker := T.walker.set 1 ⟨.release, 5, snapOf bd4, .a, 64, false⟩, lock := T.lock.set 3 ⟨true, false⟩ })
    (s.tile 0).walker[(1 : ChIx)] = ⟨.idle, 5, none, .a, 0, false⟩ ∧ (s.tile 0).lock[(3 : LockIx)] = ⟨true, false⟩ := by decide

/-- The last row of table 2.7.2: BD 4 is fetched, slot B selected by `abCur`. -/
theorem test_walkFetch :
    let s := after (.walkFetch 0 1) (onTile fun T =>
      { walking 1 .fetch 4 none 0 (withBd 4 bd4 T) with abCur := T.abCur.set 4 .b })
    (s.tile 0).walker[(1 : ChIx)] = ⟨.acquire, 4, some (unpackBd .reference bd4), .b, 0, false⟩
    ∧ (unpackBd .reference bd4).nextBd = 7 ∧ (unpackBd .reference bd4).fields.length = 63 ∧ (unpackBd .reference bd4).fields.a.lockId = 3 := by decide

/-- Other rows of table 2.7.2: a word never written, valid 0, interleave with FIFO mode, FIFO mode. -/
theorem test_walkFetch_outcomes :
    (after (.walkFetch 0 0) (onTile (walking 0 .fetch 2 none 0))).faults = [.unwritten 0x1D040]
    ∧ (after (.walkFetch 0 0) (onTile fun T => walking 0 .fetch 2 none 0 (withBd 2 #v[0, 0, 0, 0, 0, 0, 0x000221FF] T))).faults
      = [.bdInvalid 2]
    ∧ (after (.walkFetch 0 0) (onTile fun T => walking 0 .fetch 2 none 0 (withBd 2 #v[0, 0, 0, 0, 0, 0, 0x94200000] T))).refusal
      = some .interleave
    ∧ (after (.walkFetch 0 0) (onTile fun T => walking 0 .fetch 2 none 0 (withBd 2 #v[0, 0, 0, 0, 0, 0, 0xB0000003] T))).refusal
      = some .fifoMode := by decide

/-- Section 2.7.3: the acquire of BD 4's slot A, to Transfer (S2MM) or Header (MM2S). -/
theorem test_walkAcquire :
    let s := after (.walkAcquire 0 1) (onTile (walking 1 .acquire 4 (snapOf bd4) 0))
    (s.tile 0).lock[(3 : LockIx)] = ⟨true, false⟩ ∧ ((s.tile 0).walker[(1 : ChIx)]).phase = .transfer
    ∧ (((after (.walkAcquire 0 2) (onTile (walking 2 .acquire 4 (snapOf bd4) 0))).tile 0).walker[(2 : ChIx)]).phase = .header := by
  decide

/-- Section 2.7.3: the acquire holds while `LOCK[3]` has value 1. -/
theorem test_walkAcquire_holds :
    let s := onTile fun T => walking 1 .acquire 4 (snapOf bd4) 0 { T with lock := T.lock.set 3 ⟨false, true⟩ }
    ((after (.walkAcquire 0 1) s).tile 0).walker = (s.tile 0).walker ∧ ((after (.walkAcquire 0 1) s).tile 0).lock = (s.tile 0).lock := by
  decide

/-- Table 2.7.4: the header word of type 2, id 17. -/
theorem test_walkHeader :
    ((after (.walkHeader 0 2) (onTile (walking 2 .header 4 (snapOf bd4) 0))).tile 0).inQ[(2 : SlaveId)] = [⟨0x00002011, false⟩] := by
  decide

/-- Table 2.7.4, MM2S0: the last word carries `last`. -/
theorem test_walkTransfer_mm2s :
    let s := after (.walkTransfer 0 2) (onTile fun T =>
      { walking 2 .transfer 1 (snapOf bdPlain) 0 T with dm := writeWord T.dm 0x10 0xAAAA0002 })
    (s.tile 0).inQ[(2 : SlaveId)] = [⟨0xAAAA0002, true⟩] ∧ ((s.tile 0).walker[(2 : ChIx)]).phase = .release := by decide

/-- Table 2.7.4, S2MM0: a word is stored and taken from the queue; section 2.7.5: the address of the second word is out of
range. -/
theorem test_walkTransfer_s2mm :
    let s := after (.walkTransfer 0 0) (onTile fun T =>
      { walking 0 .transfer 1 (snapOf bdPlain) 0 T with outQ := T.outQ.set 2 [⟨0x11, false⟩, ⟨0x33, false⟩] })
    readWord (s.tile 0).dm 0x10 = some 0x11 ∧ (s.tile 0).outQ[(2 : MasterId)] = [⟨0x33, false⟩]
    ∧ (after (.walkTransfer 0 0) (onTile fun T =>
        { walking 0 .transfer 1 (snapOf #v[0x1FFF, 0, 0x00FF0001, 0xFFFF0100, 0, 0, 0x80000001]) 1 T with
          outQ := T.outQ.set 2 [⟨0x22, false⟩] })).faults = [.dmaAddr 8192] := by decide

/-- Section 2.7.3: at Release, `LOCK[3] = {1,0}` becomes `{0,1}`. -/
theorem test_walkRelease :
    let s := after (.walkRelease 0 1) (onTile fun T =>
      walking 1 .release 4 (snapOf bd4) 64 { T with lock := T.lock.set 3 ⟨true, false⟩ })
    (s.tile 0).lock[(3 : LockIx)] = ⟨false, true⟩ ∧ ((s.tile 0).walker[(1 : ChIx)]).phase = .advance := by decide

/-- Table 2.7.7: the chain goes on to BD 7, with the other slot next time (R267). -/
theorem test_walkAdvance :
    let s := after (.walkAdvance 0 1) (onTile (walking 1 .advance 4 (snapOf bd4) 64))
    (s.tile 0).walker[(1 : ChIx)] = ⟨.fetch, 7, none, .a, 0, false⟩ ∧ (s.tile 0).abCur[(4 : BdIx)] = .b := by decide

/-- Table 2.7.7: `nextEn = 0` ends the walk. -/
theorem test_walkAdvance_ends :
    ((after (.walkAdvance 0 0) (onTile (walking 0 .advance 1 (snapOf bdPlain) 1))).tile 0).walker[(0 : ChIx)]
      = ⟨.idle, 1, none, .a, 0, false⟩ := by decide

/-! ### Single steps: the switch and the environment -/

/-- Section 2.10: broadcast to masters 20 and 21 in one step. -/
theorem test_swCircuit :
    let s := after (.swCircuit 0 7) (onTile fun T => { circuit T with mcfg := (circuit T).mcfg.set 21 ⟨0x80000007, true⟩ })
    (s.tile 0).outQ[(20 : MasterId)] = [⟨5, false⟩] ∧ (s.tile 0).outQ[(21 : MasterId)] = [⟨5, false⟩]
    ∧ (s.tile 0).inQ[(7 : SlaveId)] = [] := by decide

/-- Section 2.10: with the slave disabled nothing moves. -/
theorem test_swCircuit_disabled :
    let s := onTile fun T => { circuit T with scfg := T.scfg }
    ((after (.swCircuit 0 7) s).tile 0).inQ[(7 : SlaveId)] = [⟨5, false⟩] ∧ ((after (.swCircuit 0 7) s).tile 0).outQ[(20 : MasterId)] = [] := by
  decide

/-- Tables 2.12.1 and 2.12.2: id 3 takes slot 1, arbiter 5, to masters 15 and 20. -/
theorem test_swPktStart :
    ((after (.swPktStart 0 7) (onTile (packets 0x2003))).tile 0).pktRoute[(7 : SlaveId)] = some ⟨[15, 20], 5, true⟩ := by decide

/-- Table 2.12.1: id 5 matches no slot. -/
theorem test_swPktStart_no_match :
    (after (.swPktStart 0 7) (onTile (packets 5))).faults = [.noSlotMatch 7 5] := by decide

/-- Section 2.12.3: the header goes to master 15 only; it waits while slave 8's packet passes through master 15 (R356). -/
theorem test_swPktForward_header :
    let s := after (.swPktForward 0 7) (onTile (inFlight true))
    (s.tile 0).outQ[(15 : MasterId)] = [⟨0x2003, false⟩] ∧ (s.tile 0).outQ[(20 : MasterId)] = []
    ∧ (s.tile 0).arbOwner[(5 : Fin 8)] = some 7
    ∧ ((after (.swPktForward 0 7) (onTile fun T =>
        { inFlight true T with pktRoute := (inFlight true T).pktRoute.set 8 (some ⟨[15], 2, false⟩) })).tile 0).outQ[(15 : MasterId)]
      = [] := by decide

/-- Section 2.12.3: after the last word slave and arbiter are free. -/
theorem test_swPktForward_last :
    let s := after (.swPktForward 0 7) (onTile fun T => { inFlight false T with inQ := T.inQ.set 7 [⟨2, true⟩] })
    (s.tile 0).outQ[(20 : MasterId)] = [⟨2, true⟩] ∧ (s.tile 0).pktRoute[(7 : SlaveId)] = none
    ∧ (s.tile 0).arbOwner[(5 : Fin 8)] = none := by decide

/-- R314: a feeder appends, and waits at a full queue (`P_PORT_DEPTH = 2`). -/
theorem test_envStep_push :
    ((after (.envStep 0 (.push 7 ⟨9, true⟩)) (onTile circuit)).tile 0).inQ[(7 : SlaveId)] = [⟨5, false⟩, ⟨9, true⟩]
    ∧ ((after (.envStep 0 (.push 7 ⟨9, true⟩)) (onTile fun T =>
        { T with inQ := T.inQ.set 7 [⟨5, false⟩, ⟨6, false⟩] })).tile 0).inQ[(7 : SlaveId)] = [⟨5, false⟩, ⟨6, false⟩] := by decide

/-- R314: a drainer takes the head; R8: the core requests a lock. -/
theorem test_envStep_pop_lock :
    ((after (.envStep 0 (.pop 15)) (onTile fun T => { T with outQ := T.outQ.set 15 [⟨4, true⟩] })).tile 0).drained
      = [(15, ⟨4, true⟩)]
    ∧ ((after (.envStep 0 (.lock .core 3 (.acqV true))) (locked false true)).tile 0).lock[(3 : LockIx)] = ⟨true, true⟩ := by
  decide

/-! ### Single steps: commands -/

/-- What a command returns. -/
def returns (i : Instr) : Option CmdResult := (after i .reset).host.result

/-- A poll with timeout 0 queues one read (R163). -/
theorem test_poll : (after (.poll 0 0x1E1C0 1 1 0) .reset).host.queue = [.pollTry 0 0x1E1C0 1 1 0] := by decide

/-- Scenario 1.9, and a row of table 2.2.4. -/
theorem test_lockAcquire :
    (hosted 1 (after (.lockAcquire 0 3 (.num 1) 0) (locked false false))).host.result = some (.bool false)
    ∧ (hosted 1 (after (.lockAcquire 0 3 (.num 0xFF) 0) (locked false true))).host.result = some (.bool true)
    ∧ returns (.lockAcquire 0 16 (.num 0) 0) = some (.err .badLockId) := by decide

/-- A row of table 2.2.4: `lock.release T, 3, 1, 0` on `{1,0}`. -/
theorem test_lockRelease :
    let s := hosted 1 (after (.lockRelease 0 3 (.num 1) 0) (locked true false))
    s.host.result = some (.bool true) ∧ (s.tile 0).lock[(3 : LockIx)] = ⟨false, true⟩ := by decide

/-- Word `k` of the packed mirror BD 0. -/
def packed0 (k : BdWordIx) (s : State) : Word := (packBd .reference (s.engine 0).bd[(0 : BdIx)])[k]

/-- Section 2.3: `bd.setLock` and its rule for values not given. -/
theorem test_bdSetLock :
    packed0 0 (after (.bdSetLock 0 0 .a 3 1 (.num 1) 1 (.num 0)) .reset) = 0x00FD0000
    ∧ packed0 0 (after (.bdSetLock 0 0 .a 4 1 (.num 0xFF) 1 (.num 0xFF))
        (after (.bdSetLock 0 0 .a 3 1 (.num 1) 1 (.num 0)) .reset)) = 0x013D0000 := by decide

/-- Section 2.3: the checks of `bd.setLock`, in order. -/
theorem test_bdSetLock_checks :
    returns (.bdSetLock 0 0 .other 16 0 (.num 0) 0 (.num 0)) = some (.err .badSlot)
    ∧ returns (.bdSetLock 0 0 .a 16 0 (.num 0) 0 (.num 0)) = some (.err .badLockId)
    ∧ returns (.bdSetLock 0 0 .a 3 1 (.num 2) 1 (.num 0)) = some (.err .badLockValue) := by decide

/-- Section 2.3: `bd.set2D`. -/
theorem test_bdSet2D :
    packed0 3 (after (.bdSet2D 0 0 .y 4 8 16) .reset) = 0x03070010
    ∧ packed0 2 (after (.bdSet2D 0 0 .x 256 256 0) .reset) = 0xFFFF0000
    ∧ returns (.bdSet2D 0 0 .x 257 1 0) = some (.err .fieldTooWide) := by decide

/-- Section 2.3: `bd.setInterleave`. -/
theorem test_bdSetInterleave :
    let s := after (.bdSetInterleave 0 0 1 .b 8 0) .reset
    packed0 5 s = 0x00000100 ∧ packed0 6 s = 0x84200000
    ∧ returns (.bdSetInterleave 0 0 1 .b 6 0) = some (.err .intlvCountNotMult4) := by decide

/-- Section 1.4 and the first vectors of 2.4. -/
theorem test_bdSetAddrLenMode :
    let s := after (.bdSetNext 0 0 1) (after (.bdSetAddrLenMode 0 0 0 0 2048 0 0) .reset)
    packed0 6 s = 0x800221FF
    ∧ packed0 0 (after (.bdSetAddrLenMode 0 0 0x5000 0 2048 0 0) .reset) = 0x00001400 := by decide

/-- Section 1.4: the checks of `bd.setAddrLenMode`. -/
theorem test_bdSetAddrLenMode_checks :
    returns (.bdSetAddrLenMode 0 0 0x5001 0 2048 0 3) = some (.err .badFifoMode)
    ∧ returns (.bdSetAddrLenMode 0 0 0x5001 0 2048 2 0) = some (.err .misaligned)
    ∧ returns (.bdSetAddrLenMode 0 0 0 0 2052 0 1) = some (.err .lengthFifoAlign)
    ∧ returns (.bdSetAddrLenMode 0 0 0 0 3 0 1) = some (.err .lengthZero)
    ∧ returns (.bdSetAddrLenMode 0 0 0 0 32772 0 0) = some (.err .fieldTooWide)
    ∧ returns (.bdSetAddrLenMode 0 0 0 0 2052 0 0) = some .ok := by decide

/-- Table 1.3: the chain-enable and next-BD bits of word 6. -/
theorem test_bdSetNext :
    getField (packed0 6 (after (.bdSetNext 0 0 0xFF) .reset)) 13 5 = 0b00000
    ∧ getField (packed0 6 (after (.bdSetNext 0 0 15) .reset)) 13 5 = 0b11111
    ∧ returns (.bdSetNext 0 0 0xFE) = some (.err .badNextBd) := by decide

/-- Section 2.3: `bd.setPacket`. -/
theorem test_bdSetPacket : packed0 4 (after (.bdSetPacket 0 0 1 2 17) .reset) = 0x00002011 := by decide

/-- Section 1.2: the packed words of a cleared BD. -/
theorem test_bdClear :
    packBd .reference ((after (.bdClear 0 0) (after (.bdSetPacket 0 0 1 2 17) .reset)).engine 0).bd[(0 : BdIx)]
      = #v[0, 0, 0x00FF0001, 0xFFFF0100, 0, 0, 0x80000000] := by decide

/-- Every mirror BD is cleared (R201). -/
theorem test_bdClearAll :
    (((after (.bdClearAll 0) (after (.bdSetPacket 0 7 1 2 17) .reset)).engine 0).bd[(7 : BdIx)]) = .cleared := by decide

/-- Section 1.2: the seven writes of a commit, in order. -/
theorem test_bdCommit :
    (after (.bdCommit 0 3) .reset).host.queue =
      [.bus 0 32 true 0x1D060 0, .bus 0 32 true 0x1D064 0, .bus 0 32 true 0x1D068 0x00FF0001,
       .bus 0 32 true 0x1D06C 0xFFFF0100, .bus 0 32 true 0x1D070 0, .bus 0 32 true 0x1D074 0,
       .bus 0 32 true 0x1D078 0x80000000, .ret .ok] := by decide

/-- Section 2.6: `ch.control E, MM2S1, 0, 1` and two failing checks. -/
theorem test_chControl :
    (after (.chControl 0 3 0 1) .reset).host.queue = [.bus 0 32 true 0x1DE18 1, .ret .ok]
    ∧ returns (.chControl 0 4 0 1) = some (.err .badChannel) ∧ returns (.chControl 0 0 2 0) = some (.err .badFlag) := by decide

/-- Section 2.6: `ch.setStartBd` with an index and with the sentinel. -/
theorem test_chSetStartBd :
    (after (.chSetStartBd 0 2 5) .reset).host.queue = [.bus 0 32 true 0x1DE14 5, .noteStartBd 0 2 5, .ret .ok]
    ∧ (after (.chSetStartBd 0 1 0xFF) .reset).host.queue = [.noteStartBd 0 1 0xFF, .ret .ok]
    ∧ returns (.chSetStartBd 0 0 16) = some (.err .badStartBd) := by decide

/-- Section 2.6: `ch.reset E, S2MM1`. -/
theorem test_chReset :
    (after (.chReset 0 1) .reset).host.queue =
      [.bus 0 32 true 0x1DE08 2, .bus 0 32 true 0x1DE08 0, .noteStartBd 0 1 0xFF, .ret .ok]
    ∧ returns (.chReset 0 7) = some (.err .badChannel) := by decide

/-- Section 2.6: the eight writes of `ch.resetAll`. -/
theorem test_chResetAll :
    ((after (.chResetAll 0) .reset).host.queue.filter fun op => match op with | .bus .. => true | _ => false) =
      [.bus 0 32 true 0x1DE00 2, .bus 0 32 true 0x1DE00 0, .bus 0 32 true 0x1DE08 2, .bus 0 32 true 0x1DE08 0,
       .bus 0 32 true 0x1DE10 2, .bus 0 32 true 0x1DE10 0, .bus 0 32 true 0x1DE18 2, .bus 0 32 true 0x1DE18 0] := by decide

/-- P4 steps 1 and 2: the second initialisation does nothing. -/
theorem test_dmaInitialize :
    let s := hosted 18 (after (.dmaInitialize 0 0) .reset)
    s.host.result = some .ok ∧ (s.engine 0).ready = true ∧ (after (.dmaInitialize 0 0) s).host = s.host := by decide

/-- Table 2.9: `ss.portId`. -/
theorem test_ssPortId :
    returns (.ssPortId .ct .slave .trace 1) = some (.value 26) ∧ returns (.ssPortId .ct .master .north 6) = some (.err .badPort)
    ∧ returns (.ssPortId .bt .master .north 5) = some (.value 18) := by decide

/-- Table 1.5: enable with packet mode, disable. -/
theorem test_ssConfigureMaster :
    (after (.ssConfigureMaster 0 .north 5 1 1 0xA5) .reset).host.queue = [.bus 0 32 true 0x3F050 0xC00000A5, .ret .ok]
    ∧ (after (.ssConfigureMaster 0 .north 5 0 1 0xA5) .reset).host.queue = [.bus 0 32 true 0x3F050 0, .ret .ok] := by decide

/-- Table 2.9: `ss.configureSlave`. -/
theorem test_ssConfigureSlave :
    (after (.ssConfigureSlave 0 .dma 0 1 1) .reset).host.queue = [.bus 0 32 true 0x3F108 0xC0000000, .ret .ok]
    ∧ (after (.ssConfigureSlave 0 .east 3 0 1) .reset).host.queue = [.bus 0 32 true 0x3F160 0, .ret .ok] := by decide

/-- Scenario 1.8, on both kinds of tile. -/
theorem test_ssConnectCircuit :
    (after (.ssConnectCircuit 0 .south 0 .north 5 1) .reset).host.queue
      = [.bus 0 32 true 0x3F050 0x80000007, .bus 0 32 true 0x3F11C 0x80000000, .ret .ok]
    ∧ (after (.ssConnectCircuit 1 .south 0 .north 5 1) .reset).host.queue
      = [.bus 1 32 true 0x3F048 0x80000003, .bus 1 32 true 0x3F10C 0x80000000, .ret .ok] := by decide

/-- Table 1.6 and a failing check of table 2.11. -/
theorem test_ssConfigureSlot :
    (after (.ssConfigureSlot 0 .south 0 1 1 3 0x1F 2 5) .reset).host.queue = [.bus 0 32 true 0x3F274 0x031F0125, .ret .ok]
    ∧ (after (.ssConfigureSlot 0 .south 0 1 0 3 0x1F 2 5) .reset).host.queue = [.bus 0 32 true 0x3F274 0, .ret .ok]
    ∧ returns (.ssConfigureSlot 0 .dma 0 4 1 3 0x1F 2 5) = some (.err .badSlotIndex) := by decide

/-- Table 2.11: `ss.mstrPktConfig`. -/
theorem test_ssMstrPktConfig :
    returns (.ssMstrPktConfig 1 0b0100 5) = some (.value 0xA5) ∧ returns (.ssMstrPktConfig 0 16 0) = some (.err .fieldTooWide)
    ∧ returns (.ssMstrPktConfig 2 0 0) = some (.err .badFlag) := by decide

/-! ### Shared operations -/

/-- Section 2.1: the field codec. -/
theorem test_fieldCodec :
    setField 5 13 4 = 0x0000A000 ∧ setField 0x1F 16 5 = 0x001F0000 ∧ setField 0x123 0 8 = 0x00000023
    ∧ getField 0x800221FF 13 4 = 1 ∧ getField 0x800221FF 0 13 = 0x1FF ∧ getField 0x031F0125 24 5 = 3 := by decide

/-- Vector 2.4.3: BD 4 packed. -/
theorem test_packBd :
    let s := after (.bdSetPacket 0 4 1 2 17) (after (.bdSetNext 0 4 7) (after (.bdSetAddrLenMode 0 4 0x1000 0x2000 256 1 0)
      (after (.bdSetLock 0 4 .b 5 1 (.num 0xFF) 1 (.num 0xFF)) (after (.bdSetLock 0 4 .a 3 1 (.num 1) 1 (.num 0)) .reset))))
    packBd .reference (s.engine 0).bd[(4 : BdIx)] = bd4 := by decide

/-- Section 2.8: the reference address generator. -/
theorem test_addrGen :
    addrGen2D .reference ⟨0x100, 0, 255, 1, 255, 255, 256⟩ 300 = 0x22C
    ∧ (List.range 10).map (addrGen2D .reference ⟨0, 0, 3, 1, 3, 255, 16⟩) = [0, 1, 2, 3, 16, 17, 18, 19, 32, 33] := by decide

/-! ### Witnesses: the hypotheses of the statements are met by concrete states and operands -/

/-- The reference parameters are an address map and meet the reference map. -/
theorem reference_referenceMap : Config.Params.reference.ReferenceMap := ⟨rfl, rfl, rfl, rfl, rfl, rfl, rfl, rfl⟩

theorem witness_DecodeEncode :
    Config.Params.reference.IsMap ∧ Instr.wf .reference kinds (.slotWr 0 26 3 5) = true
    ∧ Instr.wf .reference kinds (.lockWrBt 1 15 0x7C 1) = true := ⟨reference_isMap, by decide, by decide⟩

theorem witness_EncodeDecode :
    Config.Params.reference.IsMap ∧ decode .reference kinds (.bus 0 32 true 0x3F3AC 5) = .ok (.slotWr 0 26 3 5)
    ∧ decode .reference kinds (.bus 1 32 false 0x147C0 0) = .ok (.lockAcqNvRdBt 1 15) := by
  refine ⟨reference_isMap, ?_, ?_⟩ <;> decide

/-- An aligned word that a row selects (the last BD word) and one that no row selects (word 7), a misaligned word, a 16-bit
access. -/
theorem witness_DecoderSelectsRows :
    Config.Params.reference.ReferenceMap ∧ (0x5D1F8#19).toNat % 4 = 0 ∧ decode .reference kinds (rawOfWord 18 0 0x5D1F8 9) = .ok (.bdWr 0 15 6 9)
    ∧ (tableRows.filter fun r => r.selects (kinds 0) 0x5D1F8).length = 1
    ∧ (∀ r ∈ tableRows, r.selects (kinds 0) 0x5D1FC = false) ∧ (0x1E042#19).toNat % 4 ≠ 0 ∧ 16 ≠ 32 := by
  refine ⟨reference_referenceMap, ?_, ?_, ?_, ?_, ?_, ?_⟩ <;> decide

/-- One state for each clause: a transaction, a transaction at a system address, a line, an agent's turn, no directed turn. -/
theorem witness_StepRunsDecoded :
    (hostNext [.bus 0 32 true 0x3F050 7]).Clean ∧ (hostNext []).turns = [.host]
    ∧ decode .reference State.reset.kinds (.bus 0 32 true 0x3F050 7) = .ok (.mcfgWr 0 20 7)
    ∧ (State.reset.tile 0).ref.base + 2 ^ State.reset.params.wOff ≤ (State.reset.tile 1).ref.base
    ∧ (State.reset.tile 1).ref.base + 0x14000 = 0x54000
    ∧ decode .reference State.reset.kinds (.bus 1 32 false 0x14000 0) = .ok (.lockRelNvRdBt 1 0)
    ∧ decode .reference State.reset.kinds (.line ⟨"bd.clearAll", [.eng 0]⟩) = .ok (.bdClearAll 0)
    ∧ ({ State.reset with turns := [.agent (.walk 0 0 .start)] } : State).turns = [.agent (.walk 0 0 .start)]
    ∧ State.reset.turns = [] ∧ State.reset.params.ReferenceMap ∧ (∀ u, State.reset.kind u = .ct ↔ u = 0)
    ∧ decodeTableWord 24 0x7F050 = some (.mcfgWr 0 20 0) := by
  refine ⟨⟨rfl, rfl, rfl⟩, rfl, ?_, ?_, ?_, ?_, ?_, rfl, rfl, reference_referenceMap, ?_, ?_⟩ <;> decide

/-- No instruction is encoded as a read at offset 0x8000, the first beyond data memory. -/
theorem unmapped_0x8000 (i : Instr) (h : i.wf .reference kinds = true) :
    encode .reference kinds i ≠ .bus 0 32 false 0x8000 0 := by
  have k0 : kinds 0 = .ct := by decide
  intro h'
  cases i <;> simp only [encode, busRd, busWr, Raw.bus.injEq, true_and, and_true, reduceCtorEq, false_and, and_false] at h'
  all_goals
    obtain ⟨rfl, h'⟩ := h'
    simp only [k0, Config.Params.layout, Config.Params.reference, Config.Layout.reference, dmOff, bdOff, ctrlOff,
      startBdOff, statusOff, lockOff, lockRegionOff, lockOp, mcfgOff, scfgOff, slotOff] at h'
  all_goals first
    | omega
    | (split at h' <;> omega)
    | skip
  next wa =>
    obtain rfl : wa = 8192 := by omega
    exact absurd h (by decide)

/-- A 16-bit access, a misaligned one, an unmapped one, a mapped one, a system address beyond both tiles. -/
theorem witness_HostAccessFaults :
    (hostNext [.bus 0 16 true 0x3F050 0]).Clean ∧ (hostNext [.bus 0 16 true 0x3F050 0]).turns = [.host]
    ∧ (hostNext [.bus 0 16 true 0x3F050 0]).host.queue = [.bus 0 16 true 0x3F050 0] ∧ 16 ≠ 32
    ∧ (hostNext [.bus 0 32 false 0x1E042 0]).host.queue = [.bus 0 32 false 0x1E042 0] ∧ 0x1E042 % 4 ≠ 0
    ∧ (hostNext [.bus 0 32 false 0x8000 0]).host.queue = [.bus 0 32 false 0x8000 0] ∧ 0x8000 % 4 = 0
    ∧ (hostNext []).params.IsMap
    ∧ (∀ i, i.wf (hostNext []).params (hostNext []).kinds = true →
        encode (hostNext []).params (hostNext []).kinds i ≠ .bus 0 32 false 0x8000 0)
    ∧ decode .reference kinds (.bus 0 32 false 0x7FFC 0) = .ok (.dmRd 0 0x1FFF)
    ∧ (hostNext [.mmio 0x80000 32 false 0]).host.queue = [.mmio 0x80000 32 false 0]
    ∧ ∀ u, ¬ (((hostNext []).tile u).ref.base ≤ 0x80000
        ∧ 0x80000 < ((hostNext []).tile u).ref.base + 2 ^ (hostNext []).params.wOff) := by
  refine ⟨⟨rfl, rfl, rfl⟩, ?_, ?_, ?_, ?_, ?_, ?_, ?_, reference_isMap, unmapped_0x8000, ?_, ?_, ?_⟩ <;> decide

theorem witness_FaultsNeverCleared :
    exec (.lockWr 0 0 0x40 1) .reset = .next (after (.lockWr 0 0 0x40 1) .reset)
    ∧ step (State.reset.withFetchWord 24 0x5E040) = .next (stepped (State.reset.withFetchWord 24 0x5E040))
    ∧ (after (.lockWr 0 0 0x40 1) .reset).faults = .reservedWrite 0x1E040 :: []
    ∧ (State.reset.refuse .btDma).faults = [] ∧ (State.reset.refuse .btDma).refusal = some .btDma := ⟨rfl, rfl, rfl, rfl, rfl⟩

/-- A fault, the in-use write of R269 and the state its next step faults in, a refusal. -/
theorem witness_FaultStepsDoNothingElse :
    let u := after (.bdWr 0 0 0 0) (onTile (walking 0 .transfer 0 (snapOf bdPlain) 0))
    (after (.bdRd 0 0 0) .reset).faults ≠ State.reset.faults
    ∧ u.faults = [] ∧ u.refusal = none ∧ u.pending = some (.bdInUseWrite 0)
    ∧ (after (.bdClearAll 1) .reset).refusal ≠ State.reset.refusal
    ∧ exec (.bdClearAll 1) .reset = .next (after (.bdClearAll 1) .reset) := by
  refine ⟨?_, ?_, ?_, ?_, ?_, rfl⟩ <;> decide

/-- A state whose data memory holds a word, the host about to write another. -/
def stored : State := (after (.dmWr 0 0x1400 0xCAFE) .reset).withFetchWord 24 0x45004

theorem witness_MemoryCanonicalKept :
    stored.MemoryInv ∧ step stored = .next (stepped stored) ∧ (stored.tile 0).dm.length = 4
    ∧ ((stepped stored).tile 0).dm.length = 8 := by
  refine ⟨?_, rfl, ?_, ?_⟩
  · intro t; revert t; decide
  · decide
  · decide

/-- A state with a word waiting at slave 7, the switch about to move it. -/
def routing : State := { onTile circuit with turns := [.agent (.switch 0 7 .circuit)] }

theorem witness_QueueBoundKept :
    routing.QueueInv ∧ step routing = .next (stepped routing) ∧ ((stepped routing).tile 0).outQ[(20 : MasterId)] = [⟨5, false⟩] := by
  refine ⟨?_, rfl, ?_⟩
  · unfold State.QueueInv; decide
  · decide

/-- A state whose walker 1 is about to acquire lock 3. -/
def acquiring : State :=
  { onTile (walking 1 .acquire 4 (snapOf bd4) 0) with turns := [.agent (.walk 0 1 .acquire)] }

theorem acquiring_walker (t : TileId) (c : ChIx) :
    (acquiring.tile t).walker[c] = if t = 0 ∧ c = 1 then ⟨.acquire, 4, snapOf bd4, .a, 0, false⟩ else .powerOn := by
  revert t c; decide

theorem witness_WalkerInvKept :
    acquiring.WalkerInv ∧ step acquiring = .next (stepped acquiring)
    ∧ ((stepped acquiring).tile 0).walker[(1 : ChIx)].phase = .transfer := by
  refine ⟨fun t c => ?_, rfl, ?_⟩
  · rw [acquiring_walker]
    split
    · next h =>
      obtain ⟨rfl, rfl⟩ := h
      refine ⟨fun h => absurd h (by decide), ⟨?_, ?_, ?_, fun _ => rfl⟩, rfl⟩ <;> decide
    · exact ⟨fun _ => rfl, rfl⟩
  · decide

/-- A state with the packet of vector 2.12.3 about to pass. -/
def forwarding : State := { onTile (inFlight false) with turns := [.agent (.switch 0 7 .pktForward)] }

theorem witness_ArbiterInvKept :
    forwarding.ArbiterInv ∧ step forwarding = .next (stepped forwarding)
    ∧ ((stepped forwarding).tile 0).outQ[(20 : MasterId)] = [⟨0x2003, false⟩] := by
  have ha : ∀ (t : TileId) (a : Fin 8), (forwarding.tile t).arbOwner[a] = if t = 0 ∧ a = 5 then some 7 else none := by decide
  have hp : ∀ (t : TileId) (p : SlaveId),
      (forwarding.tile t).pktRoute[p] = if t = 0 ∧ p = 7 then some ⟨[15, 20], 5, false⟩ else none := by decide
  refine ⟨fun t => ⟨fun a p => ?_, fun p r h => ?_, fun p p' r r' h h' _ _ m _ _ => ?_⟩, rfl, ?_⟩
  · rw [ha, hp]
    constructor
    · intro h
      split at h
      · next h0 => cases h; exact ⟨⟨[15, 20], 5, false⟩, if_pos ⟨h0.1, rfl⟩, h0.2.symm, rfl⟩
      · cases h
    · rintro ⟨r, h, h1, -⟩
      split at h
      · next h0 => cases h; rw [if_pos ⟨h0.1, h1.symm⟩, h0.2]
      · cases h
  · rw [hp] at h
    split at h
    · next h0 => cases h; rw [h0.1]; decide
    · cases h
  · rw [hp] at h h'
    split at h
    · next h0 =>
      split at h'
      · next h1 => exact h0.2.trans h1.2.symm
      · cases h'
    · cases h
  · decide

/-- A state whose engine holds a setter's result, the host about to run `bd.setNext`. -/
def setting : State :=
  let s := after (.bdSetAddrLenMode 0 0 0 0 2048 0 2) .reset
  { s with turns := [.host], host := { s.host with queue := [.line ⟨"bd.setNext", [.eng 0, .num 0, .num 1]⟩] } }

theorem witness_MirrorInvKept :
    setting.MirrorInv ∧ step setting = .next (stepped setting) ∧ ((stepped setting).engine 0).bd[(0 : BdIx)].fields.nextEn = true := by
  refine ⟨⟨fun e => ⟨fun c => ?_, fun n => ?_⟩, fun e c x h => ?_⟩, rfl, ?_⟩
  · right; revert e c; decide
  · have : ∀ (e : TileId) (n : BdIx), (setting.engine e).bd[n] = if e = 0 ∧ n = 0 then
        { MirrorBd.cleared with fields := { MirrorBd.cleared.fields with length := 511, fifoMode := 2 } } else .cleared := by decide
    rw [this]
    split <;> (refine ⟨?_, ?_, ?_, ?_, ?_⟩ <;> decide)
  · simp [setting] at h
  · decide

theorem witness_TilesAreIndependent :
    exec (.mcfgWr 1 3 7) .reset = .next (after (.mcfgWr 1 3 7) .reset) ∧ Instr.touches (.mcfgWr 1 3 7) ≠ some 0
    ∧ step stored = .next (stepped stored) := ⟨rfl, by decide, rfl⟩

/-- A host request, and a request of walker 1 by the lock of its descriptor's slot. -/
theorem witness_OnlyRequestsChangeLocks :
    exec (.lockAcqNvRd 0 3) (locked false true) = .next (after (.lockAcqNvRd 0 3) (locked false true))
    ∧ ((after (.lockAcqNvRd 0 3) (locked false true)).tile 0).lock[(3 : LockIx)] ≠ ((locked false true).tile 0).lock[(3 : LockIx)]
    ∧ exec (.walkAcquire 0 1) acquiring = .next (after (.walkAcquire 0 1) acquiring)
    ∧ ((after (.walkAcquire 0 1) acquiring).tile 0).lock[(3 : LockIx)] ≠ (acquiring.tile 0).lock[(3 : LockIx)] :=
  ⟨rfl, by decide, rfl, by decide⟩

theorem witness_OnlyHostChangesDescriptors :
    exec (.bdWr 0 4 6 1) .reset = .next (after (.bdWr 0 4 6 1) .reset)
    ∧ ((after (.bdWr 0 4 6 1) .reset).tile 0).bdw[(4 : BdIx)][(6 : BdWordIx)] ≠ (State.reset.tile 0).bdw[(4 : BdIx)][(6 : BdWordIx)]
    ∧ ((after (.walkAdvance 0 1) (onTile (walking 1 .advance 4 (snapOf bd4) 64))).tile 0).abCur[(4 : BdIx)]
      ≠ ((onTile (walking 1 .advance 4 (snapOf bd4) 64)).tile 0).abCur[(4 : BdIx)] := ⟨rfl, by decide, by decide⟩

theorem witness_OnlyStoresChangeMemory :
    exec (.dmWr 0 1 5) .reset = .next (after (.dmWr 0 1 5) .reset)
    ∧ readByte ((after (.dmWr 0 1 5) .reset).tile 0).dm 4 ≠ readByte (State.reset.tile 0).dm 4 := ⟨rfl, by decide⟩

/-- Tile 0 of the reference fabric is a compute tile, tile 1 a boundary tile: the hypothesis of every statement about one of
the two kinds. -/
theorem witness_kinds : State.reset.kind 0 = .ct ∧ State.reset.kind 1 = .bt := by decide

theorem witness_PowerOnState :
    (State.powerOn .reference .reference referenceFabric).kind 0 = .ct := by decide

theorem witness_DataMemoryWrite :
    State.reset.kind 0 = .ct ∧ 0x1FFF < State.reset.params.dmWords ∧ State.reset.layout 0 = .reference .ct
    ∧ Agent.walker 0 1 ≠ .host := by decide

/-- The first word of the space, read where it is written and where it is not, and a read that races with no write. -/
theorem witness_DataMemoryRead :
    (after (.dmWr 0 0 5) .reset).kind 0 = .ct ∧ 0x1FFF < (after (.dmWr 0 0 5) .reset).params.dmWords
    ∧ State.reset.layout 0 = .reference .ct ∧ (after (.dmWr 0 0 5) .reset).racing .host 0 0 = []
    ∧ readWord ((after (.dmWr 0 0 5) .reset).tile 0).dm 0 = some 5 ∧ readWord (State.reset.tile 0).dm 0x1FFF = none
    ∧ State.reset.racing .host 0 0x1FFF = [] := by decide

/-- The host has written word 3 of tile 0 and released lock 3, which it held. -/
def released : State := after (.lockRelNvRd 0 3) (after (.dmWr 0 3 7) (locked true false))

/-- The host's release orders walker 1, by its acquire of the same lock, after the host's write; a request that fails, and an
instruction that makes none. -/
theorem witness_LocksOrderData :
    let s := after (.dmWr 0 3 7) (locked true false)
    s.lockOk 0 3 .relNV = true ∧ s.lockRequest .host 0 3 .relNV = { released with host := s.host }
    ∧ stepRun 0 released = .next released ∧ released.lockOk 0 3 .acqNV = true
    ∧ released.writes[0]? = some ⟨0, 3, none, 7, [.host], [(0, 3)], []⟩ ∧ Agent.host ∈ [Agent.host]
    ∧ exec (.lockRelNvRd 0 3) s = .next released
    ∧ (released.tile 0).lock[(3 : LockIx)] ≠ (s.tile 0).lock[(3 : LockIx)]
    ∧ lockRequestOf s (.lockRelNvRd 0 3) = some (0, 3, .relNV)
    ∧ exec (.lockAcqNvRd 0 3) s = .next (after (.lockAcqNvRd 0 3) s) ∧ lockRequestOf s (.lockAcqNvRd 0 3) = some (0, 3, .acqNV)
    ∧ s.lockOk 0 3 .acqNV = false ∧ lockRequestOf acquiring (.walkAcquire 0 1) = some (0, 3, .acqV false)
    ∧ lockRequestOf s (.dmWr 0 3 7) = none ∧ exec (.dmWr 0 3 7) s = .next (after (.dmWr 0 3 7) s)
    ∧ step stored = .next (stepped stored) ∧ stored.writes.length = 1 ∧ Agent.walker 0 1 ≠ .host := by
  refine ⟨?_, rfl, rfl, ?_, ?_, ?_, rfl, ?_, ?_, rfl, ?_, ?_, ?_, ?_, rfl, rfl, ?_, ?_⟩ <;> decide

/-- A descriptor in use by a walker, and one that is not. -/
theorem witness_DescriptorWrite :
    (onTile (walking 0 .transfer 0 (snapOf bdPlain) 0)).kind 0 = .ct
    ∧ ((onTile (walking 0 .transfer 0 (snapOf bdPlain) 0)).faults = []
      ∧ (onTile (walking 0 .transfer 0 (snapOf bdPlain) 0)).refusal = none
      ∧ (onTile (walking 0 .transfer 0 (snapOf bdPlain) 0)).pending = none)
    ∧ State.reset.layout 0 = .reference .ct
    ∧ ((onTile (walking 0 .transfer 0 (snapOf bdPlain) 0)).params.bdInUse = .fault
      ∧ ∃ c : ChIx, (((onTile (walking 0 .transfer 0 (snapOf bdPlain) 0)).tile 0).walker[c]).phase ≠ .idle
        ∧ (((onTile (walking 0 .transfer 0 (snapOf bdPlain) 0)).tile 0).walker[c]).phase ≠ .fetch
        ∧ (((onTile (walking 0 .transfer 0 (snapOf bdPlain) 0)).tile 0).walker[c]).cur = 0)
    ∧ ¬ (State.reset.params.bdInUse = .fault ∧ ∃ c : ChIx, ((State.reset.tile 0).walker[c]).phase ≠ .idle
        ∧ ((State.reset.tile 0).walker[c]).phase ≠ .fetch ∧ ((State.reset.tile 0).walker[c]).cur = 15) := by decide

theorem witness_DescriptorRead :
    ((((after (.bdWr 0 15 6 1) .reset).tile 0).bdw[(15 : BdIx)][(6 : BdWordIx)]).written = true
    ∧ ((State.reset.tile 0).bdw[(0 : BdIx)][(0 : BdWordIx)]).written = false) ∧ (after (.bdWr 0 15 6 1) .reset).kind 0 = .ct := by decide

/-- A word that resets and one that does not; a walker in Idle and one that is not. -/
theorem witness_ChannelWrites :
    State.reset.kind 0 = .ct ∧ State.reset.layout 0 = .reference .ct ∧ (3#32).getLsbD 1 = true ∧ (1#32).getLsbD 1 = false
    ∧ (0 : ChIx) ≠ 3 ∧ ((State.reset.tile 0).walker[(3 : ChIx)]).phase = .idle
    ∧ (((onTile (walking 0 .fetch 0 none 0)).tile 0).walker[(0 : ChIx)]).phase ≠ .idle := by decide

/-- The last master and slave of each kind. -/
theorem witness_RegisterReads :
    State.reset.kind 0 = .ct ∧ (∀ t, State.reset.layout t = .reference (State.reset.kind t))
    ∧ (24 : MasterId).val < State.reset.params.nMasters (State.reset.kind 0)
    ∧ (22 : MasterId).val < State.reset.params.nMasters (State.reset.kind 1)
    ∧ (26 : SlaveId).val < State.reset.params.nSlaves (State.reset.kind 0)
    ∧ (23 : SlaveId).val < State.reset.params.nSlaves (State.reset.kind 1) := by decide

theorem witness_ReservedWritesFault :
    State.reset.kind 0 = .ct ∧ State.reset.kind 1 = .bt ∧ State.reset.faults = [] ∧ 0x7F < (State.reset.layout 1).lockStride
    ∧ State.reset.layout 0 = .reference .ct ∧ State.reset.layout 1 = .reference .bt := by decide

/-- An acquire that succeeds and one that fails, with and without a value. -/
theorem witness_LockAcquireReads :
    (locked false true).kind 0 = .ct ∧ (lockedBt false true).kind 1 = .bt
    ∧ (((locked false true).tile 0).lock[(3 : LockIx)]).held = false ∧ (((locked false true).tile 0).lock[(3 : LockIx)]).value = true
    ∧ ¬ (((locked true true).tile 0).lock[(3 : LockIx)]).held = false := by decide

/-- A release of a held lock, of a free lock under `fail` and under `succeed`. -/
theorem witness_LockReleaseReads :
    (locked true false).kind 0 = .ct ∧ (((locked true false).tile 0).lock[(3 : LockIx)]).held = true
    ∧ (((locked false false).tile 0).lock[(3 : LockIx)]).held = false
    ∧ ({ locked false false with params := { Config.Params.reference with relFree := .fail } } : State).params.relFree = .fail
    ∧ ({ locked false false with params := { Config.Params.reference with relFree := .succeed } } : State).params.relFree = .succeed := by
  decide

/-- The last master and slave of each kind. -/
theorem witness_SwitchRegisterWrites :
    (∀ t, State.reset.layout t = .reference (State.reset.kind t))
    ∧ (24 : MasterId).val < State.reset.params.nMasters (State.reset.kind 0)
    ∧ (22 : MasterId).val < State.reset.params.nMasters (State.reset.kind 1)
    ∧ (26 : SlaveId).val < State.reset.params.nSlaves (State.reset.kind 0)
    ∧ (23 : SlaveId).val < State.reset.params.nSlaves (State.reset.kind 1) := by decide

/-- The first master and slave a boundary tile lacks, the first word beyond data memory, the first place beyond a lock. -/
theorem witness_ForeignTransactionsFault :
    State.reset.kind 1 = .bt ∧ State.reset.kind 0 = .ct ∧ ¬ (23 : MasterId).val < State.reset.params.nMasters (State.reset.kind 1)
    ∧ ¬ (24 : SlaveId).val < State.reset.params.nSlaves (State.reset.kind 1) ∧ State.reset.params.dmWords ≤ 8192
    ∧ (State.reset.layout 0).lockStride ≤ 0x80 := by decide

/-- A state in which channel 0 may start, and one in which it is held in reset; a running walker whose channel is disabled,
and one in Idle. -/
theorem witness_WalkStartsAndAbandons :
    let s := after (.chStartBdWr 0 0 3) (after (.chCtrlWr 0 0 1) .reset)
    let u := onTile fun T => { walking 1 .transfer 4 (snapOf bd4) 5 T with ctrl := T.ctrl }
    (s.kind 0 = .ct ∧ s.layout 0 = .reference .ct ∧ ((s.tile 0).walker[(0 : ChIx)]).phase = .idle
      ∧ ((s.tile 0).ctrl[(0 : ChIx)]).val.getLsbD 1 = false
      ∧ ((s.tile 0).ctrl[(0 : ChIx)]).val.getLsbD 0 = true ∧ ((s.tile 0).walker[(0 : ChIx)]).startPending = true
      ∧ ¬ ((after (.chCtrlWr 0 0 3) s).tile 0).ctrl[(0 : ChIx)].val.getLsbD 1 = false)
    ∧ u.kind 0 = .ct ∧ ((u.tile 0).walker[(1 : ChIx)]).phase ≠ .idle ∧ ((u.tile 0).ctrl[(1 : ChIx)]).val.getLsbD 0 = false
    ∧ ((u.tile 0).ctrl[(1 : ChIx)]).val.getLsbD 1 = false ∧ ((State.reset.tile 0).walker[(1 : ChIx)]).phase = .idle := by decide

/-- A walker in Fetch at a BD with the given words. -/
def fetching (w : Vector Word 7) : State := onTile fun T => walking 0 .fetch 15 none 0 (withBd 15 w T)

/-- A fetch of an unwritten BD, of a BD that is not valid, that interleaves, in a FIFO mode, and of a BD that can run. -/
theorem witness_WalkFetches :
    (fetching bdPlain).kind 0 = .ct ∧ (((fetching bdPlain).tile 0).walker[(0 : ChIx)]).phase = .fetch
    ∧ (((fetching bdPlain).tile 0).ctrl[(0 : ChIx)]).val.getLsbD 1 = false
    ∧ (((onTile (walking 0 .fetch 15 none 0)).tile 0).bdw[(15 : BdIx)][(0 : BdWordIx)]).written = false
    ∧ (∀ j : BdWordIx, j < 0 → (((onTile (walking 0 .fetch 15 none 0)).tile 0).bdw[(15 : BdIx)][j]).written = true)
    ∧ (∀ k : BdWordIx, (((fetching bdPlain).tile 0).bdw[(15 : BdIx)][k]).written = true)
    ∧ (unpackBd .reference #v[0, 0, 0, 0, 0, 0, 0x000221FF]).valid = false
    ∧ (unpackBd .reference #v[0, 0, 0, 0, 0, 0, 0x84200000]).valid = true ∧ (unpackBd .reference #v[0, 0, 0, 0, 0, 0, 0x84200000]).fields.intlvEn = true
    ∧ (unpackBd .reference #v[0, 0, 0, 0, 0, 0, 0x90000003]).fields.intlvEn = false
    ∧ (unpackBd .reference #v[0, 0, 0, 0, 0, 0, 0x90000003]).fields.fifoMode ≠ 0
    ∧ (unpackBd .reference bdPlain).valid = true ∧ (unpackBd .reference bdPlain).fields.intlvEn = false ∧ (unpackBd .reference bdPlain).fields.fifoMode = 0 := by
  decide

/-- Walker `c` in phase `ph` with BD 4 (slot A) fetched. -/
def at4 (c : ChIx) (ph : Phase) (held value : Bool) : State :=
  onTile fun T => walking c ph 4 (snapOf bd4) 0 { T with lock := T.lock.set 3 ⟨held, value⟩ }

/-- A BD without an acquire, an acquire that is granted, one that is not. -/
theorem witness_WalkAcquires :
    (at4 1 .acquire false false).kind 0 = .ct ∧ (((at4 1 .acquire false false).tile 0).walker[(1 : ChIx)]).phase = .acquire
    ∧ (((at4 1 .acquire false false).tile 0).ctrl[(1 : ChIx)]).val.getLsbD 1 = false
    ∧ (((at4 1 .acquire false false).tile 0).walker[(1 : ChIx)]).snap = some (unpackBd .reference bd4)
    ∧ (3 : LockIx).val = (unpackBd .reference bd4).fields.a.lockId.toNat ∧ (unpackBd .reference bd4).fields.a.acqEn = true
    ∧ (unpackBd .reference bd4).fields.a.acqValEn = true ∧ (unpackBd .reference bd4).fields.a.acqVal = false
    ∧ ((at4 1 .acquire false false).tile 0).lock[(3 : LockIx)] = ⟨false, false⟩
    ∧ ((at4 1 .acquire false true).tile 0).lock[(3 : LockIx)] = ⟨false, true⟩
    ∧ (unpackBd .reference bdPlain).fields.a.acqEn = false := by decide

/-- Channel 2 feeds slave 2, with an empty queue and with a full one. -/
theorem witness_WalkSendsHeader :
    (at4 2 .header false false).kind 0 = .ct ∧ (((at4 2 .header false false).tile 0).walker[(2 : ChIx)]).phase = .header
    ∧ (((at4 2 .header false false).tile 0).ctrl[(2 : ChIx)]).val.getLsbD 1 = false
    ∧ (((at4 2 .header false false).tile 0).walker[(2 : ChIx)]).snap = some (unpackBd .reference bd4) 
    ∧ (2 : SlaveId).val = State.reset.params.slavesCt.dma.first + ((2 : ChIx).val - 2)
    ∧ State.reset.params.slavesCt = .reference .ct .slave
    ∧ (((at4 2 .header false false).tile 0).inQ[(2 : SlaveId)]).length < State.reset.params.portDepth
    ∧ State.reset.params.portDepth ≤ [(⟨1, false⟩ : StreamWord), ⟨2, false⟩].length := by decide

/-- Channel 3 at the last address of data memory, and one beyond it. -/
theorem witness_WalkSendsWord :
    (at4 3 .transfer false false).kind 0 = .ct ∧ (((at4 3 .transfer false false).tile 0).walker[(3 : ChIx)]).phase = .transfer
    ∧ (((at4 3 .transfer false false).tile 0).ctrl[(3 : ChIx)]).val.getLsbD 1 = false
    ∧ (((at4 3 .transfer false false).tile 0).walker[(3 : ChIx)]).snap = some (unpackBd .reference bd4) 
    ∧ (3 : SlaveId).val = State.reset.params.slavesCt.dma.first + ((3 : ChIx).val - 2)
    ∧ 8191 < State.reset.params.dmWords ∧ State.reset.params.dmWords ≤ 8192
    ∧ (((at4 3 .transfer false false).tile 0).inQ[(3 : SlaveId)]).length < (at4 3 .transfer false false).params.portDepth
    ∧ addrGen2D .reference ((unpackBd .reference #v[0x1FFF, 0, 0x00FF0001, 0xFFFF0100, 0, 0, 0x80000001]).addr2D .a) 0 = 8191
    ∧ addrGen2D .reference ((unpackBd .reference #v[0x1FFF, 0, 0x00FF0001, 0xFFFF0100, 0, 0, 0x80000001]).addr2D .a) 1 = 8192
    ∧ (at4 3 .transfer false false).racing (.walker 0 3) 0 8191 = []
    ∧ readWord (writeWord [] 8191 5) 8191 = some 5
    ∧ State.reset.params.portDepth ≤ [(⟨1, false⟩ : StreamWord), ⟨2, false⟩].length := by decide

/-- Channel 1 drains master 3, with a word and without one; the addresses of `witness_WalkSendsWord`. -/
theorem witness_WalkStoresWord :
    (at4 1 .transfer false false).kind 0 = .ct ∧ (1 : ChIx).val < 2
    ∧ (((at4 1 .transfer false false).tile 0).walker[(1 : ChIx)]).phase = .transfer
    ∧ (((at4 1 .transfer false false).tile 0).ctrl[(1 : ChIx)]).val.getLsbD 1 = false
    ∧ (((at4 1 .transfer false false).tile 0).walker[(1 : ChIx)]).snap = some (unpackBd .reference bd4) 
    ∧ (3 : MasterId).val = State.reset.params.mastersCt.dma.first + (1 : ChIx).val
    ∧ State.reset.params.mastersCt = .reference .ct .master
    ∧ ((at4 1 .transfer false false).tile 0).outQ[(3 : MasterId)] = []
    ∧ ((onTile fun T => { T with outQ := T.outQ.set 3 [⟨1, true⟩] }).tile 0).outQ[(3 : MasterId)] = ⟨1, true⟩ :: [] := by decide

/-- A BD without a release, a release of a held lock, of a free lock under `fail`. -/
theorem witness_WalkReleases :
    (at4 0 .release true false).kind 0 = .ct ∧ (((at4 0 .release true false).tile 0).walker[(0 : ChIx)]).phase = .release
    ∧ (((at4 0 .release true false).tile 0).ctrl[(0 : ChIx)]).val.getLsbD 1 = false
    ∧ (((at4 0 .release true false).tile 0).walker[(0 : ChIx)]).snap = some (unpackBd .reference bd4)
    ∧ (3 : LockIx).val = (unpackBd .reference bd4).fields.a.lockId.toNat ∧ (unpackBd .reference bd4).fields.a.relEn = true
    ∧ (((at4 0 .release true false).tile 0).lock[(3 : LockIx)]).held = true
    ∧ (((at4 0 .release false false).tile 0).lock[(3 : LockIx)]).held = false
    ∧ ({ at4 0 .release false false with params := { Config.Params.reference with relFree := .fail } } : State).params.relFree = .fail
    ∧ (unpackBd .reference bdPlain).fields.a.relEn = false := by decide

theorem witness_WalkAdvances :
    (at4 0 .advance true false).kind 0 = .ct ∧ (((at4 0 .advance true false).tile 0).walker[(0 : ChIx)]).phase = .advance
    ∧ (((at4 0 .advance true false).tile 0).ctrl[(0 : ChIx)]).val.getLsbD 1 = false
    ∧ (((at4 0 .advance true false).tile 0).walker[(0 : ChIx)]).snap = some (unpackBd .reference bd4)
    ∧ (7 : BdIx).val = (unpackBd .reference bd4).nextBd.toNat := by decide

/-- Master 20 in circuit mode names slave 99, master 15 in packet mode names arbiter 7. -/
theorem witness_SwitchConfigurationFaults :
    let T := (onTile fun T => { T with mcfg := (T.mcfg.set 20 ⟨0x80000063, true⟩).set 15 ⟨0xC0000007, true⟩ }).tile 0
    T.BadMaster .reference 20 ∧ T.BadMaster .reference 15 ∧ ¬ T.BadMaster .reference 16 := by
  unfold Tile.BadMaster; decide

set_option maxRecDepth 4000 in
/-- A slave whose word can move to master 20, and one with an empty queue. -/
theorem witness_CircuitStep :
    let T := (onTile circuit).tile 0
    (¬ ∃ m, T.BadMaster .reference m) ∧ T.layout .reference = .reference T.ref.kind ∧ T.inQ[(7 : SlaveId)] = ⟨5, false⟩ :: [] ∧ (7 : SlaveId).val < State.reset.params.nSlaves T.ref.kind
    ∧ (T.scfg[(7 : SlaveId)]).val.getLsbD 31 = true ∧ (T.scfg[(7 : SlaveId)]).val.getLsbD 30 = false
    ∧ T.pktRoute[(7 : SlaveId)] = none
    ∧ (∀ m : MasterId, (m.val < State.reset.params.nMasters T.ref.kind ∧ (T.mcfg[m]).val.getLsbD 31 = true
        ∧ (T.mcfg[m]).val.getLsbD 30 = false ∧ (T.mcfg[m]).val.toNat % 128 = 7) ↔ m = 20)
    ∧ (T.outQ[(20 : MasterId)]).length < 2 ∧ T.inQ[(8 : SlaveId)] = [] := by
  unfold Tile.BadMaster; decide

set_option maxRecDepth 4000 in
/-- The slots of vector 2.12.1: a header that matches, one that does not, a slot whose id has a bit outside its mask, an
arbiter out of range, and no master for the slot. -/
theorem witness_PacketStartStep :
    let T := (onTile (packets 0x2003)).tile 0
    (¬ ∃ m, T.BadMaster .reference m) ∧ T.layout .reference = .reference T.ref.kind ∧ (7 : SlaveId).val < State.reset.params.nSlaves T.ref.kind ∧ (T.scfg[(7 : SlaveId)]).val.getLsbD 31 = true
    ∧ (T.scfg[(7 : SlaveId)]).val.getLsbD 30 = true ∧ T.pktRoute[(7 : SlaveId)] = none
    ∧ T.inQ[(7 : SlaveId)] = ⟨0x2003, false⟩ :: [⟨1, true⟩] ∧ T.badSlots .reference 7 = [] ∧ T.matchingSlots .reference 7 3 = [1]
    ∧ T.matchingSlots .reference 7 5 = [] ∧ T.packetTargets .reference 5 2 = [15, 20] ∧ T.packetTargets .reference 1 0 = []
    ∧ slotId (.reference .ct) 0x031C0101 &&& ~~~slotMask (.reference .ct) 0x031C0101 ≠ 0 ∧ slotEnable (.reference .ct) 0x031C0101 = true
    ∧ 6 ≤ (slotArb (.reference .ct) 0x031F0126).toNat := by
  unfold Tile.BadMaster; decide

set_option maxRecDepth 4000 in
/-- The packet of vector 2.12.3, ready; an arbiter another slave holds; a slave with no packet in flight, and no word. -/
theorem witness_PacketForwardStep :
    let T := (onTile (inFlight false)).tile 0
    (¬ ∃ m, T.BadMaster .reference m) ∧ T.layout .reference = .reference T.ref.kind ∧ (∀ x : SlaveId, x ≠ 7 → T.pktRoute[x] = none)
    ∧ T.pktRoute[(7 : SlaveId)] = some ⟨[15, 20], 5, false⟩ ∧ (5 : Fin 8).val = (5#3).toNat
    ∧ T.inQ[(7 : SlaveId)] = ⟨0x2003, false⟩ :: [⟨1, true⟩] ∧ (7 : SlaveId).val < State.reset.params.nSlaves T.ref.kind
    ∧ (T.scfg[(7 : SlaveId)]).val.getLsbD 31 = true ∧ T.arbOwner[(5 : Fin 8)] = some 7
    ∧ (∀ m ∈ ([15, 20] : List MasterId), (T.outQ[m]).length < 2) ∧ T.pktRoute[(8 : SlaveId)] = none ∧ T.inQ[(8 : SlaveId)] = []
    ∧ ¬ (({ T with arbOwner := T.arbOwner.set 5 (some 8) } : Tile).arbOwner[(5 : Fin 8)] = none) := by
  unfold Tile.BadMaster; decide

/-- The last ports the environment has on each kind, a port it has not, empty and full queues, a free and a held lock, a
release of a free lock under `fail`, a written word, the first word beyond data memory. -/
theorem witness_EnvironmentSteps :
    let P := State.reset.params
    ((26 : SlaveId).val < P.nSlaves (State.reset.kind 0) ∧ (26 : SlaveId) ≠ P.channelSlave 2 ∧ (26 : SlaveId) ≠ P.channelSlave 3)
    ∧ ((2 : SlaveId).val < P.nSlaves (State.reset.kind 1) ∧ State.reset.kind 1 ≠ .ct)
    ∧ (3 : SlaveId) = P.channelSlave 3 ∧ ¬ (24 : SlaveId).val < P.nSlaves (State.reset.kind 1)
    ∧ ((24 : MasterId).val < P.nMasters (State.reset.kind 0) ∧ (24 : MasterId) ≠ P.channelMaster 0 ∧ (24 : MasterId) ≠ P.channelMaster 1)
    ∧ (2 : MasterId) = P.channelMaster 0 ∧ ¬ (23 : MasterId).val < P.nMasters (State.reset.kind 1)
    ∧ ((State.reset.tile 0).inQ[(26 : SlaveId)]).length < P.portDepth
    ∧ P.portDepth ≤ [(⟨1, false⟩ : StreamWord), ⟨2, false⟩].length
    ∧ (State.reset.tile 0).outQ[(24 : MasterId)] = []
    ∧ ((onTile fun T => { T with outQ := T.outQ.set 24 [⟨1, true⟩] }).tile 0).outQ[(24 : MasterId)] = ⟨1, true⟩ :: []
    ∧ P.slavesCt = .reference .ct .slave ∧ P.mastersCt = .reference .ct .master
    ∧ ((locked false true).tile 0).lock[(3 : LockIx)] = ⟨false, true⟩ ∧ ((locked true true).tile 0).lock[(3 : LockIx)] = ⟨true, true⟩
    ∧ ({ locked false true with params := { Config.Params.reference with relFree := .fail } } : State).params.relFree = .fail
    ∧ State.reset.kind 0 = .ct ∧ 8191 < P.dmWords ∧ P.dmWords ≤ 8192 ∧ State.reset.kind 1 = .bt ∧ Agent.host ≠ envAgent 0 .core
    ∧ readWord ((onTile fun T => { T with dm := writeWord T.dm 3 7 }).tile 0).dm 3 = some 7
    ∧ (onTile fun T => { T with dm := writeWord T.dm 3 7 }).racing (.core 0) 0 3 = [] := by decide

/-- The host's program begins with one attempt of a poll of lock 3's AcqNV offset. -/
def polling (more : Nat) (s : State) : State :=
  { s with host := { s.host with queue := [.pollTry 0 0x1E1C0 1 1 more] } }

/-- One read of that attempt. -/
def polled (s : State) : Result := hostTurn { s with host := { s.host with queue := [.bus 0 32 false 0x1E1C0 0] } }

/-- The attempt succeeds on a free lock, fails on a held one, and ends on a read that faults. -/
theorem witness_PollAttempts :
    (polling 4 (locked false true)).host.queue = [.pollTry 0 0x1E1C0 1 1 4]
    ∧ (∃ s1, polled (polling 4 (locked false true)) = .next s1 ∧ s1.ended = false ∧ s1.host.readData.toNat &&& 1 = 1)
    ∧ (∃ s1, polled (polling 0 (locked true true)) = .next s1 ∧ s1.ended = false ∧ s1.host.readData.toNat &&& 1 ≠ 1)
    ∧ ∃ s1, hostTurn (hostNext [.bus 0 32 false 0x1E010 0]) = .next s1 ∧ s1.ended = true := by
  refine ⟨rfl, ⟨_, rfl, ?_, ?_⟩, ⟨_, rfl, ?_, ?_⟩, ⟨_, rfl, ?_⟩⟩ <;> decide

/-- The largest index, the sentinel, and a queued attempt on a free and on a held lock, with attempts left and without. -/
theorem witness_LockCommands :
    (16 ≤ 16 ∧ readValArg State.reset.params.noValue (.num 2) = none
      ∧ readValArg State.reset.params.noValue (.num 0xFF) = some none
      ∧ readValArg State.reset.params.noValue (.num 1) = some (some true) ∧ State.reset.params.noValue ≠ 0
      ∧ State.reset.params.noValue ≠ 1 ∧ (3 : LockIx).val = 3)
    ∧ (polling 0 (locked false true)).Clean ∧ (polling 4 (locked true true)).Clean
    ∧ (polling 0 (locked false true)).params.IsMap ∧ (polling 4 (locked true true)).params.IsMap
    ∧ (polling 0 (locked false true)).host.queue = .pollTry 0 (lockOff (State.reset.layout 0) 3 .acqNV)
        (2 ^ lockOkBit State.reset.params .ct .acqNV) (2 ^ lockOkBit State.reset.params .ct .acqNV) 0 :: []
    ∧ (polling 4 (locked true true)).host.queue = .pollTry 0 (lockOff (State.reset.layout 0) 3 .acqNV)
        (2 ^ lockOkBit State.reset.params .ct .acqNV) (2 ^ lockOkBit State.reset.params .ct .acqNV) 4 :: []
    ∧ (((polling 0 (locked false true)).tile 0).lock[(3 : LockIx)]).held = false
    ∧ ¬ (((polling 4 (locked true true)).tile 0).lock[(3 : LockIx)]).held = false := by
  refine ⟨?_, ⟨rfl, rfl, rfl⟩, ⟨rfl, rfl, rfl⟩, reference_isMap, reference_isMap, ?_, ?_, ?_, ?_⟩ <;> decide

/-- The largest index, and arguments that pass and fail each check. -/
theorem witness_SetLockStores :
    State.reset.kind 0 = .ct ∧ 16 ≤ 16 ∧ SlotArg.a ≠ .other ∧ ¬ (2 < 2 ∧ 1 < 2) ∧ (15 : BdIx).val = 15
    ∧ readValArg State.reset.params.noValue (.num 2) = none ∧ readValArg State.reset.params.noValue .none = some none
    ∧ readValArg State.reset.params.noValue (.num 0) = some (some false) := by decide

/-- The ends of each range, and arguments that fail each check after passing those before it. -/
theorem witness_SetFieldsStore :
    State.reset.kind 0 = .ct ∧ 16 ≤ 16 ∧ (15 : BdIx).val = 15
    ∧ (1 ≤ 1 ∧ 1 ≤ 256 ∧ 256 ≤ 256 ∧ 8191 < 2 ^ 13 ∧ ¬ (1 ≤ 257 ∧ 257 ≤ 256) ∧ ¬ 8192 < 2 ^ 13 ∧ AxisArg.x ≠ .other)
    ∧ (1 < 2 ∧ 2 ≤ 2 ∧ SlotArg.b ≠ .other ∧ 250 % 4 ≠ 0 ∧ 252 % 4 = 0 ∧ 252 < 256 ∧ 255 < 256 ∧ ¬ (256 < 256 ∧ 0 < 256))
    ∧ (16 ≤ 16 ∧ 16 ≠ 0xFF ∧ 15 < 16) ∧ ¬ (32 < 32 ∧ 0 < 32) ∧ 31 < 32 := by decide

/-- One set of arguments that fails each check after passing those before it, and one that passes them all. -/
theorem witness_SetAddrLenModeStores :
    State.reset.kind 0 = .ct ∧ ¬ 16 < 16 ∧ ¬ (3 = 0 ∨ 3 = 1 ∨ 3 = 2) ∧ ¬ (0x5001 % 4 = 0 ∧ 0 % 4 = 0) ∧ ¬ (1 ≠ 0 → 2052 / 4 % 4 = 0)
    ∧ ¬ (2 = 0 ∨ 2 = 1) ∧ ¬ (0x8000 / 4 < 2 ^ 13 ∧ 0 / 4 < 2 ^ 13) ∧ ¬ 1 ≤ 3 / 4 ∧ ¬ 32772 / 4 - 1 < 2 ^ 13
    ∧ (15 : BdIx).val = 15 ∧ 0x7FFC % 4 = 0 ∧ 0x7FFC / 4 < 2 ^ 13 ∧ 1 ≤ 32768 / 4 ∧ 32768 / 4 - 1 < 2 ^ 13
    ∧ (2 ≠ 0 → 32768 / 4 % 4 = 0) := by decide

theorem witness_ClearsMirror : State.reset.kind 0 = .ct ∧ 16 ≤ 16 ∧ (1 : TileId) ≠ 0 := by decide

/-- A command that fails while the result of an earlier one still stands. -/
theorem witness_ErrChangesNothing :
    let s : State := State.reset.ret (.err .badFlag)
    exec (.bdCommit 0 16) s = .next (after (.bdCommit 0 16) s) ∧ s.host.result ≠ some (.err .badBdIndex)
    ∧ (after (.bdCommit 0 16) s).host.result = some (.err .badBdIndex) := ⟨rfl, by decide, by decide⟩

theorem witness_CommitRoundTrip :
    State.reset.kind 0 = .ct ∧ 16 ≤ 16 ∧ State.reset.Clean ∧ State.reset.params.IsMap ∧ State.reset.layout 0 = .reference .ct
    ∧ (State.reset.params.bdInUse = .snapshot ∨ ∀ c : ChIx, ((State.reset.tile 0).walker[c]).phase = .idle
      ∨ ((State.reset.tile 0).walker[c]).phase = .fetch ∨ ((State.reset.tile 0).walker[c]).cur ≠ 15) := by
  refine ⟨?_, ?_, ⟨rfl, rfl, rfl⟩, reference_isMap, rfl, ?_⟩ <;> decide

/-- The fields of the channel registers fit in the reference layout. -/
theorem reference_channelFits : (Config.Layout.reference .ct).ChannelFits := by
  unfold Config.Layout.ChannelFits FieldsFit; decide

/-- The last channel and the first that does not exist, flags in range and out of it, an index and the sentinel, a walker in
Idle and one that is not. -/
theorem witness_ChannelCommands :
    (State.reset.kind 0 = .ct ∧ 4 ≤ 4 ∧ 3 < 4 ∧ ¬ (2 < 2 ∧ 0 < 2) ∧ 1 < 2 ∧ ¬ (16 < 16 ∨ 16 = 0xFF) ∧ (3 : ChIx).val = 3 ∧ 15 < 16)
    ∧ State.reset.Clean ∧ (onTile (walking 3 .fetch 0 none 0)).Clean ∧ State.reset.params.IsMap
    ∧ (State.reset.layout 0).ChannelFits ∧ State.reset.layout 0 = .reference .ct
    ∧ ((State.reset.tile 0).walker[(3 : ChIx)]).phase = .idle
    ∧ (((onTile (walking 3 .fetch 0 none 0)).tile 0).walker[(3 : ChIx)]).phase ≠ .idle := by
  refine ⟨?_, ⟨rfl, rfl, rfl⟩, ⟨rfl, rfl, rfl⟩, reference_isMap, reference_channelFits, rfl, ?_, ?_⟩ <;> decide

theorem witness_ChannelResetRun :
    State.reset.kind 0 = .ct ∧ 4 ≤ 4 ∧ State.reset.Clean ∧ State.reset.params.IsMap ∧ (State.reset.layout 0).ChannelFits :=
  ⟨rfl, by decide, ⟨rfl, rfl, rfl⟩, reference_isMap, reference_channelFits⟩

theorem witness_InitializeRun :
    (State.reset.kind 0 = .ct ∧ 2 ≤ 2 ∧ (State.reset.engine 0).ready = false
      ∧ (({ State.reset with host := { State.reset.host with eng := State.reset.host.eng.set 0 (some { Eng.created with ready := true }) } } : State).engine 0).ready
        = true)
    ∧ State.reset.Clean ∧ State.reset.params.IsMap ∧ (State.reset.layout 0).ChannelFits :=
  ⟨by decide, ⟨rfl, rfl, rfl⟩, reference_isMap, reference_channelFits⟩

/-- The ends of the port ranges. -/
theorem witness_PureSwitchCommands :
    Config.Params.reference.ReferenceMap
    ∧ 5 < ((State.reset.params.ports .ct .master).range .north).count
    ∧ ((State.reset.params.ports .ct .master).range .north).count ≤ 6
    ∧ 2 ≤ 2 ∧ ¬ (16 < 16 ∧ 0 < 8) ∧ 1 < 2 ∧ 15 < 16 ∧ 7 < 8 := ⟨reference_referenceMap, by decide⟩

/-- Ports a tile has and has not, and arguments on each side of each check. -/
theorem witness_SwitchCommands :
    portId .reference (State.reset.kind 0) .master .north 6 = none ∧ portId .reference (State.reset.kind 1) .slave .dma 0 = none
    ∧ portId .reference (State.reset.kind 0) .master .north 5 = some 20 ∧ portId .reference (State.reset.kind 0) .slave .trace 1 = some 26
    ∧ ¬ (2 < 2 ∧ 0 < 2) ∧ 1 < 2 ∧ 256 ≤ 256 ∧ 255 < 256 ∧ 4 ≤ 4 ∧ 3 < 4 ∧ 2 ≤ 2 ∧ ¬ (32 < 32 ∧ 0 < 32 ∧ 0 < 4 ∧ 0 < 8)
    ∧ (31 < 32 ∧ 31 < 32 ∧ 3 < 4 ∧ 7 < 8) ∧ 26 < 256 ∧ State.reset.layout 0 = .reference (State.reset.kind 0) := by decide

/-- Two fields that fill the word between them. -/
theorem witness_FieldCodec : 13 + 4 ≤ 32 ∧ 15 < 2 ^ 4 ∧ 17 + 15 ≤ 32 ∧ (13 + 4 ≤ 17 ∨ 17 + 15 ≤ 13) := by decide

/-- A layout other than the reference one: `valid` stands in word 5. -/
theorem witness_UnpackPack : ({ Config.BdLayout.reference with valid := ⟨5, 31⟩ } : Config.BdLayout).Fits := by
  unfold Config.BdLayout.Fits FieldsFit; decide

/-- A table of headers with the id above the type. -/
def idAboveType : Vector (Vector Word 32) 32 := Vector.ofFn fun t => Vector.ofFn fun i => BitVec.ofNat 32 (32 * i.val + t.val)

theorem witness_ParameterLaws :
    8191 < 8192 ∧ ∀ t t' i i' : Fin 32, idAboveType[t][i] = idAboveType[t'][i'] → i = i' := by
  refine ⟨by decide, fun t t' i i' h => ?_⟩
  simp only [idAboveType, Fin.getElem_fin, Vector.getElem_ofFn] at h
  have := congrArg BitVec.toNat h
  simp only [BitVec.toNat_ofNat] at this
  omega

end Sys2Proof.Tests
end

section
/-! PROOF. A command that returns an error has changed nothing else (R371): every meaning is followed once with the relation
`ErrsAlone`, which the shared operations (checks, sub-commands, setters) keep; an agent's step leaves the host alone. -/

namespace Sys2Proof.Machine

/-! ### What an agent's step leaves of the host -/

theorem switchStep_host {t : TileId} {s : State} {k : State → State} (h : ∀ n, (k (s.drew n)).host = s.host) :
    (switchStep t s k).host = s.host := by
  rcases switchStep_cases t s k with e | e | ⟨f, e, -⟩ <;> rw [e]
  · exact h 0
  · exact h 1
  · rfl

theorem circuitMove_host (t : TileId) (p : SlaveId) (s : State) : (circuitMove t p s).host = s.host := by
  unfold circuitMove; split <;> rfl

theorem startPacket_host (t : TileId) (p : SlaveId) (id : BitVec 5) (s : State) : (startPacket t p id s).host = s.host := by
  simp only [startPacket]
  split
  · rfl
  · rfl
  · split_ifs <;> rfl

theorem packetStart_host (t : TileId) (p : SlaveId) (s : State) : (packetStart t p s).host = s.host := by
  simp only [packetStart]
  split
  · rfl
  · split
    · exact startPacket_host ..
    · rfl

theorem packetForward_host (t : TileId) (p : SlaveId) (s : State) : (packetForward t p s).host = s.host := by
  simp only [packetForward]
  split
  · split_ifs <;> rfl
  · rfl

theorem envAct_host (t : TileId) (s : State) (act : EnvAction) : (envAct t s act).host = s.host := by
  cases act with
  | push p w => simp only [envAct]; split <;> rfl
  | pop m => simp only [envAct]; split <;> rfl
  | lock who l q => rfl
  | read who wa => rfl
  | write who wa v => rfl

theorem fetchBd_host (t : TileId) (c : ChIx) (s : State) : (fetchBd t c s).host = s.host := by
  simp only [fetchBd]
  split
  · rfl
  · split_ifs <;> rfl

theorem acquireBd_host (t : TileId) (c : ChIx) (b : HwBd) (s : State) : (acquireBd t c b s).host = s.host := by
  simp only [acquireBd]; split_ifs <;> rfl

theorem sendHeader_host (t : TileId) (c : ChIx) (b : HwBd) (s : State) : (sendHeader t c b s).host = s.host := by
  simp only [sendHeader]; split <;> rfl

theorem sendWord_host (t : TileId) (c : ChIx) (b : HwBd) (s : State) : (sendWord t c b s).host = s.host := by
  simp only [sendWord]; split_ifs <;> rfl

theorem storeWord_host (t : TileId) (c : ChIx) (b : HwBd) (s : State) : (storeWord t c b s).host = s.host := by
  simp only [storeWord]
  split
  · rfl
  · split <;> rfl

theorem releaseBd_host (t : TileId) (c : ChIx) (b : HwBd) (s : State) : (releaseBd t c b s).host = s.host := by
  simp only [releaseBd]; split_ifs <;> rfl

/-- A step of a walker, of the switch or of the environment leaves the host's side alone (R8, R385). -/
theorem exec_decodeAgent_host (a : AgentStep) (s s' : State) (h : exec (decodeAgent a) s = .next s') : s'.host = s.host := by
  cases a with
  | env t act =>
    cases h; split
    · exact envAct_host ..
    · rfl
  | switch t p w =>
    cases w with
    | circuit => cases h; exact switchStep_host fun _ => circuitMove_host ..
    | pktStart => cases h; exact switchStep_host fun _ => packetStart_host ..
    | pktForward => cases h; exact switchStep_host fun _ => packetForward_host ..
  | walk t c w =>
    cases w with
    | start => cases h; split <;> rfl
    | abandon => cases h; split <;> rfl
    | fetch =>
      cases h; split
      · exact fetchBd_host ..
      · rfl
    | acquire =>
      cases h; split
      · exact acquireBd_host ..
      · rfl
    | header =>
      cases h; split
      · exact sendHeader_host ..
      · rfl
    | transfer =>
      cases h; split
      · split
        · exact sendWord_host ..
        · exact storeWord_host ..
      · rfl
    | release =>
      cases h; split
      · exact releaseBd_host ..
      · rfl
    | advance => cases h; split <;> rfl

/-! ### Errors that come alone -/

/-- An error that the host has in `s'` and not in `s` is all that the two states differ in (R371). -/
def ErrsAlone (s s' : State) : Prop :=
  ∀ r, s.host.result ≠ some (.err r) → s'.host.result = some (.err r) → s' = s.ret (.err r)

/-- The result the host had stands. -/
theorem ErrsAlone.of_result_eq {s s' : State} (h : s'.host.result = s.host.result) : ErrsAlone s s' :=
  fun _ hn he => absurd (h ▸ he) hn

/-- The host has no error: its command has not returned, or has returned no error. -/
theorem ErrsAlone.of_no_err {s s' : State} (h : ∀ r, s'.host.result ≠ some (.err r)) : ErrsAlone s s' :=
  fun r _ he => absurd he (h r)

/-- A command that returns, and does nothing else. -/
theorem ErrsAlone.ret {s : State} {x : CmdResult} : ErrsAlone s (s.ret x) := fun r _ he => by
  cases Option.some.inj he; rfl

/-- A command that queues its operations has not returned. -/
theorem ErrsAlone.perform {s k : State} {ops : List HostOp × CmdResult} : ErrsAlone s (k.perform ops) :=
  .of_no_err nofun

theorem ErrsAlone.onKind {s k : State} {x : TileKind} {t : TileId} {off : Nat} (h : ErrsAlone s k) :
    ErrsAlone s (onKind x t off s k) := by
  unfold Machine.onKind; split
  · exact h
  · exact .of_result_eq rfl

theorem ErrsAlone.below {s k : State} {i n off : Nat} (h : ErrsAlone s k) : ErrsAlone s (below i n off s k) := by
  unfold Machine.below; split
  · exact h
  · exact .of_result_eq rfl

theorem ErrsAlone.onEngine {s k : State} {e : TileId} (h : ErrsAlone s k) : ErrsAlone s (onEngine e s k) := by
  unfold Machine.onEngine; split
  · exact h
  · exact .of_result_eq rfl

theorem ErrsAlone.checked {s k : State} {cs : List (Bool × ErrReason)} (h : ErrsAlone s k) : ErrsAlone s (checked cs s k) := by
  rcases checked_cases cs s k with ⟨e, -, hc⟩ | ⟨-, hc⟩ <;> rw [hc]
  · exact .ret
  · exact h

theorem ErrsAlone.runSub {c : SubCommand} {s : State} : ErrsAlone s (runSub c s) := by
  cases c with
  | error e => exact .ret
  | ok ops => exact .perform

theorem ErrsAlone.setter {e : TileId} {n : Nat} {cs : List (Bool × ErrReason)} {f : MirrorBd → MirrorBd} {s : State} :
    ErrsAlone s (setter e n cs f s) := .onEngine (.checked (.of_no_err nofun))

theorem ErrsAlone.lockCommand {a : Bool} {t : TileId} {l : Nat} {v : ValArg} {timeout : Nat} {s : State} :
    ErrsAlone s (lockCommand a t l v timeout s) := .checked (.of_no_err nofun)

theorem ErrsAlone.lockRead {x : TileKind} {t : TileId} {l : LockIx} {q : LockKind} {s : State} :
    ErrsAlone s (lockRead x t l q s) := .onKind (.of_result_eq rfl)

theorem ErrsAlone.lockWrite {x : TileKind} {t : TileId} {l : LockIx} {op : Nat} {s : State} :
    ErrsAlone s (lockWrite x t l op s) := .onKind (.below (.of_result_eq rfl))

theorem ErrsAlone.agent (a : AgentStep) {s s' : State} (h : exec (decodeAgent a) s = .next s') : ErrsAlone s s' :=
  .of_result_eq (congrArg HostSide.result (exec_decodeAgent_host a s s' h))

/-- Over all instructions, an error comes alone (R371). -/
theorem exec_errsAlone (i : Instr) (s s' : State) (h : exec i s = .next s') : ErrsAlone s s' := by
  cases i with
  | dmWr t wa v => cases h; exact .onKind (.below (.of_result_eq rfl))
  | dmRd t wa => cases h; exact .onKind (.below (.of_result_eq rfl))
  | bdWr t n k v => cases h; refine .onKind ?_; split <;> exact .of_result_eq rfl
  | bdRd t n k => cases h; refine .onKind ?_; split <;> exact .of_result_eq rfl
  | chCtrlWr t c v => cases h; exact .onKind (.of_result_eq rfl)
  | chCtrlRd t c => cases h; exact .onKind (.of_result_eq rfl)
  | chStartBdWr t c v => cases h; refine .onKind ?_; split <;> exact .of_result_eq rfl
  | chStartBdRd t c => cases h; exact .onKind (.of_result_eq rfl)
  | chStatusRd t i => cases h; exact .onKind (.of_result_eq rfl)
  | chStatusWr t i v => cases h; exact .onKind (.of_result_eq rfl)
  | lockAcqNvRd t l => cases h; exact .lockRead
  | lockAcqV0Rd t l => cases h; exact .lockRead
  | lockAcqV1Rd t l => cases h; exact .lockRead
  | lockRelNvRd t l => cases h; exact .lockRead
  | lockRelV0Rd t l => cases h; exact .lockRead
  | lockRelV1Rd t l => cases h; exact .lockRead
  | lockWr t l op v => cases h; exact .lockWrite
  | lockAcqNvRdBt t l => cases h; exact .lockRead
  | lockAcqV0RdBt t l => cases h; exact .lockRead
  | lockAcqV1RdBt t l => cases h; exact .lockRead
  | lockRelNvRdBt t l => cases h; exact .lockRead
  | lockRelV0RdBt t l => cases h; exact .lockRead
  | lockRelV1RdBt t l => cases h; exact .lockRead
  | lockWrBt t l op v => cases h; exact .lockWrite
  | mcfgWr t m v => cases h; exact .below (.of_result_eq rfl)
  | mcfgRd t m => cases h; exact .below (.of_result_eq rfl)
  | scfgWr t p v => cases h; exact .below (.of_result_eq rfl)
  | scfgRd t p => cases h; exact .below (.of_result_eq rfl)
  | slotWr t p k v => cases h; exact .below (.of_result_eq rfl)
  | slotRd t p k => cases h; exact .below (.of_result_eq rfl)
  | walkStart t c => exact .agent (.walk t c .start) h
  | walkAbandon t c => exact .agent (.walk t c .abandon) h
  | walkFetch t c => exact .agent (.walk t c .fetch) h
  | walkAcquire t c => exact .agent (.walk t c .acquire) h
  | walkHeader t c => exact .agent (.walk t c .header) h
  | walkTransfer t c => exact .agent (.walk t c .transfer) h
  | walkRelease t c => exact .agent (.walk t c .release) h
  | walkAdvance t c => exact .agent (.walk t c .advance) h
  | swCircuit t p => exact .agent (.switch t p .circuit) h
  | swPktStart t p => exact .agent (.switch t p .pktStart) h
  | swPktForward t p => exact .agent (.switch t p .pktForward) h
  | envStep t act => exact .agent (.env t act) h
  | poll t off mask expected timeout => cases h; exact .of_no_err nofun
  | lockAcquire t l v timeout => cases h; exact .lockCommand
  | lockRelease t l v timeout => cases h; exact .lockCommand
  | bdSetLock e n x lockId relEn relVal acqEn acqVal => cases h; exact .setter
  | bdSet2D e n axis incr wrap offset => cases h; exact .setter
  | bdSetInterleave e n en which count current => cases h; exact .setter
  | bdSetAddrLenMode e n baseA baseB lengthBytes dbEn fifoMode => cases h; exact .setter
  | bdSetNext e n next => cases h; exact .setter
  | bdSetPacket e n en type id => cases h; exact .setter
  | bdClear e n => cases h; exact .setter
  | bdClearAll e => cases h; exact .onEngine (.of_no_err nofun)
  | bdCommit e n => cases h; exact .onEngine (.checked (.of_no_err nofun))
  | chControl e c reset enable => cases h; exact .onEngine (.runSub)
  | chSetStartBd e c bd => cases h; exact .onEngine (.runSub)
  | chReset e c => cases h; exact .onEngine (.checked (.perform))
  | chResetAll e => cases h; exact .onEngine (.perform)
  | dmaInitialize e force =>
    cases h; refine .onEngine (.checked ?_)
    split
    · exact .ret
    · exact .perform
  | ssPortId kind dir cls i => cases h; exact .ret
  | ssConfigureMaster t cls i en pktEn cfg => cases h; exact .runSub
  | ssConfigureSlave t cls i en pktEn => cases h; exact .runSub
  | ssConnectCircuit t scls si mcls mi enSlave => cases h; exact .checked (.perform)
  | ssConfigureSlot t cls i k en id mask msel arb => cases h; exact .runSub
  | ssMstrPktConfig drop mask arb => cases h; exact .checked (.ret)

/-- Settles O51, from `exec_errsAlone`: the checks return their error at once, and no other meaning returns one. -/
theorem errChangesNothing : Obligations.ErrChangesNothing :=
  fun i s s' r h hn he => exec_errsAlone i s s' h r hn he

end Sys2Proof.Machine
end

section
/-! PROOF. A step runs the instruction its turn decodes to (R8, R81, R385): one rule for a step that is not stopped, one for a
host turn, one for a raw form that decodes, and how a system address and an opcode-table word find their tile. -/

namespace Sys2Proof.Machine

/-! ### Turns -/

/-- With no fault and no refusal, a step is one turn. -/
theorem State.Clean.step_eq {s : State} (h : s.Clean) : step s = runTurn s.takeTurn.1 s.takeTurn.2 := by
  obtain ⟨hf, hr, hp⟩ := h
  simp only [step, oneStep, hf, hr, hp]

/-- A turn directed is the turn taken. -/
theorem takeTurn_cons {s : State} {u : Turn} {us : List Turn} (h : s.turns = u :: us) :
    s.takeTurn = (u, { s with turns := us }) := by
  simp only [State.takeTurn, h]

/-- With no turn directed, the turn is a free one (log 2). -/
theorem takeTurn_nil {s : State} (h : s.turns = []) : s.takeTurn = (Config.freeTurn s.draws, s.drew 1) := by
  simp only [State.takeTurn, h]

/-- A directed turn of the host runs the first operation of its program (R81). -/
theorem State.Clean.step_host {s : State} {us : List Turn} {op : HostOp} {q : List HostOp} (hc : s.Clean)
    (ht : s.turns = .host :: us) (hq : s.host.queue = op :: q) :
    step s = runOp op { s with turns := us, host := { s.host with queue := q } } := by
  rw [hc.step_eq, takeTurn_cons ht]
  simp only [runTurn, hostTurn, hq, State.setQueue]

/-- A directed turn of another agent runs the step it names (R8). -/
theorem State.Clean.step_agent {s : State} {us : List Turn} {a : AgentStep} (hc : s.Clean) (ht : s.turns = .agent a :: us) :
    step s = exec (decodeAgent a) { s with turns := us } := by
  rw [hc.step_eq, takeTurn_cons ht]; rfl

/-- A raw form that decodes runs its instruction. -/
theorem runRaw_of_decode {r : Raw} {s : State} {i : Instr} (h : decode s.params s.kinds r = .ok i) : runRaw r s = exec i s := by
  simp only [runRaw, h]

/-! ### System addresses (R21, R100) -/

/-- A transaction that decodes is at an offset inside the tile's register space (R33, R101). -/
theorem decode_bus_off_lt {q : Config.Params} {kind : TileId → TileKind} {t : TileId} {width off : Nat} {w : Bool} {v : Word}
    {i : Instr} (h : decode q kind (.bus t width w off v) = .ok i) : off < 2 ^ q.wOff := by
  simp only [decode] at h
  split at h
  · cases h
  · by_contra hn
    simp only [decodeOff, if_neg hn, reduceCtorEq] at h

/-- The system address of an offset of a tile is located there, where the register spaces of the two tiles are apart. -/
theorem State.locate_sysAddr {s : State} {t : TileId} {off : Nat} (hoff : off < 2 ^ s.params.wOff)
    (hap : (s.tile 0).ref.base + 2 ^ s.params.wOff ≤ (s.tile 1).ref.base
      ∨ (s.tile 1).ref.base + 2 ^ s.params.wOff ≤ (s.tile 0).ref.base) :
    s.locate ((s.tile t).ref.base + off) = some (t, off) := by
  have hfin : List.finRange 2 = [0, 1] := by decide
  have hin : (s.tile t).ref.base ≤ (s.tile t).ref.base + off
      ∧ (s.tile t).ref.base + off < (s.tile t).ref.base + 2 ^ s.params.wOff := by omega
  match t with
  | 0 => simp only [State.locate, hfin, List.find?_cons, decide_eq_true hin, Option.map_some, Nat.add_sub_cancel_left]
  | 1 =>
    have hout : ¬ ((s.tile 0).ref.base ≤ (s.tile 1).ref.base + off
        ∧ (s.tile 1).ref.base + off < (s.tile 0).ref.base + 2 ^ s.params.wOff) := by omega
    simp only [State.locate, hfin, List.find?_cons, decide_eq_true hin, decide_eq_false hout, Option.map_some,
      Nat.add_sub_cancel_left]

/-! ### Opcode-table words (R101) -/

/-- Parameters with the reference address map decode as the reference parameters do. -/
theorem decode_of_referenceMap {q : Config.Params} (hq : q.ReferenceMap) (kind : TileId → TileKind) :
    decode q kind = decode .reference kind := by
  obtain ⟨hct, hbt, hw, hdm, hmct, hsct, hmbt, hsbt⟩ := hq
  have hl : q.layout = Config.Params.reference.layout := funext fun k => by
    cases k
    · exact hct
    · exact hbt
  have hp : q.ports = Config.Params.reference.ports := funext fun k => funext fun d => by
    cases k <;> cases d
    · exact hmct
    · exact hsct
    · exact hmbt
    · exact hsbt
  have hoff : decodeOff q = decodeOff .reference := by
    funext k t w o v
    have hw' : q.wOff = Config.Params.reference.wOff := hw
    have hdm' : q.dmWords = Config.Params.reference.dmWords := hdm
    simp only [decodeOff, regAt, plainRegs, Config.Params.nMasters, Config.Params.nSlaves, hl, hp, hw', hdm']
  funext r
  cases r <;> simp only [decode, hoff]

/-- The tile that `fetchTile` names is the one that the opcode table's word decodes on. -/
theorem decode_fetchTile {s : State} {nbits w : Nat} {i : Instr} (hq : s.params.ReferenceMap)
    (hk : ∀ u, s.kind u = .ct ↔ u = 0) (h : decodeTableWord nbits w = some i) :
    decode s.params s.kinds (rawOfWord s.params.wOff (fetchTile s w) w 0) = .ok i := by
  have hkinds : s.kinds = referenceKinds := funext fun u => by
    by_cases hu : u = 0
    · simp only [State.kinds, referenceKinds, if_pos hu, (hk u).2 hu]
    · have hne : s.kind u ≠ .ct := fun e => hu ((hk u).1 e)
      simp only [State.kinds, referenceKinds, if_neg hu]
      cases hs : s.kind u
      · exact absurd hs hne
      · rfl
  have ⟨_, _, hw, _⟩ := hq
  simp only [decodeTableWord] at h
  simp only [fetchTile, decode_of_referenceMap hq, hkinds, hw]
  split at h
  · cases h0 : decode .reference referenceKinds (rawOfWord 18 0 w 0) with
    | ok j => rw [h0] at h; cases h; exact h0
    | error e =>
      rw [h0] at h
      cases h1 : decode .reference referenceKinds (rawOfWord 18 1 w 0) with
      | ok j => rw [h1] at h; cases h; rfl
      | error e' => rw [h1] at h; cases h
  · cases h

/-- The word placed by `withFetchWord` is the next instruction. -/
theorem State.Clean.step_withFetchWord {s : State} {nbits w : Nat} {i : Instr} (hc : s.Clean) (hq : s.params.ReferenceMap)
    (hk : ∀ u, s.kind u = .ct ↔ u = 0) (h : decodeTableWord nbits w = some i) : step (s.withFetchWord nbits w) = exec i s := by
  have hcl : (s.withFetchWord nbits w).Clean := hc
  rw [hcl.step_host (us := s.turns) (op := fetchOp s w) (q := s.host.queue) rfl rfl]
  exact runRaw_of_decode (s := s) (decode_fetchTile hq hk h)

/-- Settles O5, clause by clause from the rule of each kind of turn. -/
theorem stepRunsDecoded : Obligations.StepRunsDecoded := by
  intro s hc
  refine ⟨?bus, ?mmio, ?line, ?agent, ?free, ?word⟩
  case bus =>
    intro us q t width w off v i ht hq hd
    rw [hc.step_host ht hq]
    exact runRaw_of_decode hd
  case mmio =>
    intro us q t width w v i off ht hap hq hd
    rw [hc.step_host ht hq]
    have hloc : State.locate { s with turns := us, host := { s.host with queue := q } } ((s.tile t).ref.base + off)
        = some (t, off) := State.locate_sysAddr (s := s) (decode_bus_off_lt hd) hap
    simp only [runOp, hloc]
    exact runRaw_of_decode hd
  case line =>
    intro us q l i ht hq hd
    rw [hc.step_host ht hq]
    exact runRaw_of_decode hd
  case agent => exact fun us a ht => hc.step_agent ht
  case free =>
    intro ht
    rw [hc.step_eq, takeTurn_nil ht]; rfl
  case word => exact fun nbits w i hq hk h => hc.step_withFetchWord hq hk h

end Sys2Proof.Machine
end

section
/-! PROOF. The environment's steps (R314, R8): when an action is one the tile's environment agents have, and what each of the
five does. -/

namespace Sys2Proof.Machine

/-! ### Which actions are steps (R34, R314) -/

/-- The environment feeds the slave ports of the tile but the `dma` ones of a compute tile. -/
theorem push_wf_iff {q : Config.Params} {k : TileKind} {p : SlaveId} {w : StreamWord} :
    (EnvAction.push p w).wf q k = true ↔
      p.val < q.nSlaves k ∧ ¬ (k = .ct ∧ (p = q.channelSlave 2 ∨ p = q.channelSlave 3)) := by
  simp only [EnvAction.wf, isDmaSlave, Bool.and_eq_true, decide_eq_true_eq, Bool.not_eq_true', ← Bool.not_eq_true,
    beq_iff_eq, Bool.or_eq_true]

/-- The environment drains the master ports of the tile but the `dma` ones of a compute tile. -/
theorem pop_wf_iff {q : Config.Params} {k : TileKind} {m : MasterId} :
    (EnvAction.pop m).wf q k = true ↔
      m.val < q.nMasters k ∧ ¬ (k = .ct ∧ (m = q.channelMaster 0 ∨ m = q.channelMaster 1)) := by
  simp only [EnvAction.wf, isDmaMaster, Bool.and_eq_true, decide_eq_true_eq, Bool.not_eq_true', ← Bool.not_eq_true,
    beq_iff_eq, Bool.or_eq_true]

theorem read_wf_iff {q : Config.Params} {k : TileKind} {who : EnvAgent} {wa : Nat} :
    (EnvAction.read who wa).wf q k = true ↔ k = .ct ∧ wa < q.dmWords := by
  simp only [EnvAction.wf, Bool.and_eq_true, beq_iff_eq, decide_eq_true_eq]

theorem write_wf_iff {q : Config.Params} {k : TileKind} {who : EnvAgent} {wa : Nat} {v : Word} :
    (EnvAction.write who wa v).wf q k = true ↔ k = .ct ∧ wa < q.dmWords := by
  simp only [EnvAction.wf, Bool.and_eq_true, beq_iff_eq, decide_eq_true_eq]

/-- An action the tile's environment agents have is performed. -/
theorem exec_envStep_of_wf {s : State} {t : TileId} {act : EnvAction} (h : act.wf s.params (s.kind t) = true) :
    exec (.envStep t act) s = .next (envAct t s act) := by
  simp only [exec, execEnvStep, h, if_true]

/-- An action they do not have is no step (log 9). -/
theorem exec_envStep_of_not_wf {s : State} {t : TileId} {act : EnvAction} (h : ¬ act.wf s.params (s.kind t) = true) :
    exec (.envStep t act) s = .next s := by
  simp only [exec, execEnvStep, h, if_false, Bool.false_eq_true]

/-- Where one tile may change and its data memory does not, every byte reads as before. -/
theorem SameMemory.of_tile {s s' : State} {t : TileId} (hu : ∀ u, u ≠ t → s'.tile u = s.tile u)
    (ht : (s'.tile t).dm = (s.tile t).dm) : SameMemory s s' := fun u a => by
  by_cases h : u = t
  · rw [h, ht]
  · rw [hu u h]

/-! ### Streams -/

/-- A word is appended to a queue that has space (R47, R314). -/
theorem envPush_of_space {s : State} {t : TileId} {p : SlaveId} {w : StreamWord}
    (hf : p.val < s.params.nSlaves (s.kind t)
      ∧ ¬ (s.kind t = .ct ∧ (p = s.params.channelSlave 2 ∨ p = s.params.channelSlave 3)))
    (hs : ((s.tile t).inQ[p]).length < s.params.portDepth) :
    exec (.envStep t (.push p w)) s = .next (s.modTile t fun T => T.pushIn p w) := by
  rw [exec_envStep_of_wf (push_wf_iff.2 hf)]
  simp only [envAct, (hasSpace_iff _ _).2 hs, if_true]

/-- A full queue takes no word (R47). -/
theorem envPush_of_full {s : State} {t : TileId} {p : SlaveId} {w : StreamWord}
    (hs : s.params.portDepth ≤ ((s.tile t).inQ[p]).length) : exec (.envStep t (.push p w)) s = .next s := by
  have hn : ¬ hasSpace s.params.portDepth (s.tile t).inQ[p] = true := by rw [hasSpace_iff]; omega
  by_cases h : (EnvAction.push p w).wf s.params (s.kind t) = true
  · rw [exec_envStep_of_wf h]
    simp only [envAct, hn, if_false, Bool.false_eq_true]
  · exact exec_envStep_of_not_wf h

/-- The head of a queue that holds a word is removed, and recorded (R314; log 18). -/
theorem envPop_of_cons {s : State} {t : TileId} {m : MasterId} {w : StreamWord} {rest : List StreamWord}
    (hd : m.val < s.params.nMasters (s.kind t)
      ∧ ¬ (s.kind t = .ct ∧ (m = s.params.channelMaster 0 ∨ m = s.params.channelMaster 1)))
    (hq : (s.tile t).outQ[m] = w :: rest) :
    exec (.envStep t (.pop m)) s = .next (s.modTile t fun T => { T.popOut m with drained := T.drained ++ [(m, w)] }) := by
  rw [exec_envStep_of_wf (pop_wf_iff.2 hd)]
  simp only [envAct, hq]

/-- An empty queue gives no word. -/
theorem envPop_of_nil {s : State} {t : TileId} {m : MasterId} (hq : (s.tile t).outQ[m] = []) :
    exec (.envStep t (.pop m)) s = .next s := by
  by_cases h : (EnvAction.pop m).wf s.params (s.kind t) = true
  · rw [exec_envStep_of_wf h]
    simp only [envAct, hq]
  · exact exec_envStep_of_not_wf h

/-! ### Lock requests -/

/-- The word of a lock request, by its success (R133). -/
theorem lockWord_eq (p : Config.Params) (k : TileKind) (q : LockKind) (ok : Bool) :
    lockWord p k q ok = if ok then 1#32 <<< lockOkBit p k q else 0 := by
  cases ok
  · exact lockWord_false p k q
  · exact lockWord_true p k q

/-- An acquire takes a free lock of the value asked for, and else fails (R151). -/
theorem lockStep_acquire_of_outcome {p : Config.RelFree} {c ok : Bool} {L L' : Lock} {v : Option Bool}
    (h : (ok = true ∧ L.held = false ∧ (∀ b, v = some b → L.value = b) ∧ L' = ⟨true, L.value⟩)
      ∨ (ok = false ∧ ¬ (L.held = false ∧ ∀ b, v = some b → L.value = b) ∧ L' = L)) :
    lockStep p c L (v.elim .acqNV .acqV) = (ok, L') := by
  rcases h with ⟨rfl, hheld, hval, rfl⟩ | ⟨rfl, hno, rfl⟩
  · rw [lockStep_acquire, if_pos ⟨hheld, hval⟩]
  · rw [lockStep_acquire, if_neg hno]

/-- A release frees a held lock, and does to a free one what `P_REL_FREE` says (R151, R160). -/
theorem lockStep_release_of_outcome {p : Config.RelFree} {c ok : Bool} {L L' : Lock} {v : Option Bool}
    (h : (ok = true ∧ (L.held = true ∨ p = .succeed ∨ (p = .both ∧ c = true)) ∧ L' = ⟨false, v.getD L.value⟩)
      ∨ (ok = false ∧ L.held = false ∧ (p = .fail ∨ (p = .both ∧ c = false)) ∧ L' = L)) :
    lockStep p c L (v.elim .relNV .relV) = (ok, L') := by
  rcases h with ⟨rfl, hok, rfl⟩ | ⟨rfl, hheld, hfail, rfl⟩
  · exact lockStep_release_ok p c L v hok
  · exact lockStep_release_fail p c L' v hheld hfail

/-- An environment's lock request changes the lock and the word it returns, and orders data accesses on success (R83). -/
theorem envLock_facts {s : State} {t : TileId} {who : EnvAgent} {l : LockIx} {q : LockKind} {ok : Bool} {L' : Lock}
    (h : lockStep s.params.relFree (Config.freeBit s.draws) (s.tile t).lock[l] q = (ok, L')) :
    ∃ s', exec (.envStep t (.lock who l q)) s = .next s' ∧ OnlyTileOrder t s s' ∧ SameMemory s s'
      ∧ s'.tile t = { s.tile t with
          lock := (s.tile t).lock.set l L', envData := if ok then 1#32 <<< lockOkBit s.params (s.kind t) q else 0 } := by
  have hok : s.lockOk t l q = ok := congrArg Prod.fst h
  let s' := envAct t s (.lock who l q)
  have hother : ∀ u, u ≠ t → s'.tile u = s.tile u := fun u hu => by
    simp only [s', envAct, State.modTile_tile_ne _ _ _ _ hu, State.lockRequest_tile_ne _ _ _ _ _ _ hu]
  have htile : s'.tile t = { s.tile t with
      lock := (s.tile t).lock.set l L', envData := lockWord s.params (s.kind t) q ok } := by
    simp only [s', envAct, State.modTile_tile_same, State.lockRequest_tile_same, h, hok]; rfl
  refine ⟨s', exec_envStep_of_wf rfl, ⟨rfl, hother⟩, .of_tile hother (by rw [htile]), ?_⟩
  rw [htile, lockWord_eq]

/-! ### Data memory -/

/-- An environment's write stores the word, and every other agent's read of it races with the write (R73, R83). -/
theorem envWrite_facts {s : State} {t : TileId} {who : EnvAgent} {wa : Nat} {v : Word} (hk : s.kind t = .ct)
    (hw : wa < s.params.dmWords) :
    ∃ s', exec (.envStep t (.write who wa v)) s = .next s' ∧ OnlyTileOrder t s s' ∧ SameMemoryBut t wa s s'
      ∧ readWord (s'.tile t).dm wa = some v
      ∧ (∀ a, a ≠ envAgent t who → some v ∈ s'.racing a t wa)
      ∧ s'.tile t = { s.tile t with dm := (s'.tile t).dm } := by
  refine ⟨s.dmWrite (envAgent t who) t wa v, exec_envStep_of_wf (write_wf_iff.2 ⟨hk, hw⟩), .dmWrite .., ?_, ?_, fun a ha => ?_, ?_⟩
  · exact SameMemoryBut.mod (f := fun T => { T with dm := writeWord T.dm wa v }) fun _ => rfl
  · rw [State.dmWrite_tile_same, readWord_writeWord_same]
  · simp only [State.racing, State.dmWrite_writes, racingWords_noteWrite_other ha, List.mem_append, List.mem_cons, true_or,
      or_true]
  · rw [State.dmWrite_tile_same]

/-- Where no write races, a read returns the word in memory, or a draw where nothing has written it (R73, R90). -/
theorem State.dmValue_of_no_race {s : State} {who : Agent} {t : TileId} {wa : Nat} (h : s.racing who t wa = []) :
    s.dmValue who t wa = (readWord (s.tile t).dm wa).getD (Config.freeWord (s.draws + 1)) := by
  simp only [State.dmValue, h]
  cases readWord (s.tile t).dm wa with
  | none => exact readResult_none_nil _
  | some x => rfl

/-- An environment's read changes no byte; its word is the one in memory, a draw, or a word of a racing write (R73, R83). -/
theorem envRead_facts {s : State} {t : TileId} {who : EnvAgent} {wa : Nat} (hk : s.kind t = .ct) (hw : wa < s.params.dmWords) :
    ∃ s' d, exec (.envStep t (.read who wa)) s = .next s' ∧ OnlyTile t s s' ∧ SameMemory s s'
      ∧ s'.tile t = { s.tile t with envData := d }
      ∧ (s.racing (envAgent t who) t wa = [] →
          (∀ x, readWord (s.tile t).dm wa = some x → d = x)
          ∧ (readWord (s.tile t).dm wa = none → d = Config.freeWord (s.draws + 1)))
      ∧ ∃ o ∈ readWord (s.tile t).dm wa :: s.racing (envAgent t who) t wa, d = o.getD (Config.freeWord (s.draws + 1)) := by
  let s' := envAct t s (.read who wa)
  have hother : ∀ u, u ≠ t → s'.tile u = s.tile u := fun u hu => by
    simp only [s', envAct, State.modTile_tile_ne _ _ _ _ hu, State.dmDrew_tile]
  have htile : s'.tile t = { s.tile t with envData := s.dmValue (envAgent t who) t wa } := by
    simp only [s', envAct, State.modTile_tile_same, State.dmDrew_tile]
  refine ⟨s', _, exec_envStep_of_wf (read_wf_iff.2 ⟨hk, hw⟩), ⟨rfl, hother⟩, .of_tile hother (by rw [htile]), htile,
    fun hr => ⟨fun x hx => ?_, fun hx => ?_⟩, s.dmValue_mem _ t wa⟩
  · rw [State.dmValue_of_no_race hr, hx, Option.getD_some]
  · rw [State.dmValue_of_no_race hr, hx, Option.getD_none]

/-- Data memory of a boundary tile, and a word at or beyond `DM_WORDS`, are no place of a step (R34). -/
theorem not_ct_and_lt {s : State} {t : TileId} {wa : Nat} (h : s.kind t = .bt ∨ s.params.dmWords ≤ wa) :
    ¬ (s.kind t = .ct ∧ wa < s.params.dmWords) := by
  rintro ⟨hk, hw⟩
  rcases h with h | h
  · cases hk.symm.trans h
  · omega

/-- Settles O44, action by action. -/
theorem environmentSteps : Obligations.EnvironmentSteps := by
  intro s t
  refine ⟨fun p w => ⟨?pushSpace, ?pushFull, ?pushNone⟩, fun m => ⟨?pop, ?popNone⟩, fun h => ?slaves, fun h => ?masters,
    fun who l v ok L' q h => ?lock, fun who wa v => ⟨fun hk hw => ⟨?write, ?read⟩, fun h => ⟨?writeNone, ?readNone⟩⟩⟩
  case pushSpace =>
    exact fun hf hs => next_mod (fun T => T.pushIn p w) 0 (envPush_of_space hf hs) (fun _ => rfl) rfl
  case pushFull => exact fun _ hs => envPush_of_full hs
  case pushNone => exact fun hf => exec_envStep_of_not_wf (mt push_wf_iff.1 hf)
  case pop =>
    intro hd w rest hq
    refine next_mod (fun T => { T.popOut m with drained := T.drained ++ [(m, w)] }) 0 (envPop_of_cons hd hq) (fun _ => rfl) ?_
    simp only [Tile.popOut, hq, List.tail_cons]
  case popNone =>
    rintro (hq | hd)
    · exact envPop_of_nil hq
    · exact exec_envStep_of_not_wf (mt pop_wf_iff.1 hd)
  case slaves => simp only [Config.Params.channelSlave, h]; decide
  case masters => simp only [Config.Params.channelMaster, h]; decide
  case lock =>
    refine envLock_facts ?_
    rcases h with ⟨rfl, h⟩ | ⟨rfl, h⟩
    · have hstep := lockStep_acquire_of_outcome (p := s.params.relFree) (c := Config.freeBit s.draws) h
      cases v <;> exact hstep
    · have hstep := lockStep_release_of_outcome h
      cases v <;> exact hstep
  case write => exact envWrite_facts hk hw
  case read => exact envRead_facts hk hw
  case writeNone => exact exec_envStep_of_not_wf (mt write_wf_iff.1 (not_ct_and_lt h))
  case readNone => exact exec_envStep_of_not_wf (mt read_wf_iff.1 (not_ct_and_lt h))

end Sys2Proof.Machine
end

section
/-! PROOF. Invariants of the tiles (O9 to O12): each is shown of the moves a tile can make (`TileMove`), and so of every step. -/

namespace Sys2Proof.Machine

/-! ### From the moves of a tile to a step -/

/-- No move changes a tile's reference (R20). -/
theorem TileMove.ref {p : Config.Params} {T T' : Tile} (m : TileMove p T T') : T'.ref = T.ref := by
  cases m <;> simp

/-- What every move keeps of a tile, every step keeps of every tile. -/
theorem step_keeps_tiles {P : Config.Params → Tile → Prop} (hP : ∀ {p T T'}, TileMove p T T' → P p T → P p T')
    {s s' : State} (hs : step s = .next s') (h : ∀ t, P s.params (s.tile t)) (t : TileId) : P s'.params (s'.tile t) := by
  obtain ⟨hp, ht⟩ := step_moved s s' hs
  rw [hp]
  rcases ht t with he | hm
  · rw [he]; exact h t
  · exact hP hm (h t)

/-! ### Data memory (R34, R70) -/

/-- A move stores at most one word, inside data memory. -/
theorem TileMove.dm {p : Config.Params} {T T' : Tile} (m : TileMove p T T') :
    T'.dm = T.dm ∨ ∃ wa v, wa < p.dmWords ∧ T'.dm = writeWord T.dm wa v := by
  cases m with
  | mem wa v hw => exact .inr ⟨wa, v, hw, rfl⟩
  | store c b wa v hr hp hs hw => exact .inr ⟨wa, v, hw, rfl⟩
  | _ => exact .inl (by simp)

theorem TileMove.keeps_memory {p : Config.Params} {T T' : Tile} (m : TileMove p T T') (h : Memory.wf p.dmWords T.dm) :
    Memory.wf p.dmWords T'.dm := by
  rcases m.dm with he | ⟨wa, v, hw, he⟩ <;> rw [he]
  · exact h
  · exact writeWord_wf _ _ _ _ hw h

/-- Settles O9: a move stores nothing or one word inside data memory, and such a store keeps the canonical form. -/
theorem memoryCanonicalKept : Obligations.MemoryCanonicalKept :=
  fun _ _ h hs => step_keeps_tiles (P := fun p T => Memory.wf p.dmWords T.dm) TileMove.keeps_memory hs h

/-! ### Stream queues (R47) -/

/-- The queues of a tile hold at most `P_PORT_DEPTH` words. -/
def Tile.QueuesFit (p : Config.Params) (T : Tile) : Prop :=
  (∀ x : SlaveId, (T.inQ[x]).length ≤ p.portDepth) ∧ ∀ m : MasterId, (T.outQ[m]).length ≤ p.portDepth

theorem Tile.QueuesFit.pushIn {p : Config.Params} {T : Tile} {x : SlaveId} (h : T.QueuesFit p)
    (hq : (T.inQ[x]).length < p.portDepth) (w : StreamWord) : (T.pushIn x w).QueuesFit p := by
  refine ⟨fun y => ?_, h.2⟩
  rw [Tile.pushIn_inQ, getElem_set_fin]
  split
  · rw [List.length_append]; exact hq
  · exact h.1 y

theorem Tile.QueuesFit.popIn {p : Config.Params} {T : Tile} (h : T.QueuesFit p) (x : SlaveId) : (T.popIn x).QueuesFit p := by
  refine ⟨fun y => ?_, h.2⟩
  rw [Tile.popIn_inQ, getElem_set_fin]
  split
  · rw [List.length_tail]; exact (Nat.sub_le _ _).trans (h.1 x)
  · exact h.1 y

theorem Tile.QueuesFit.popOut {p : Config.Params} {T : Tile} (h : T.QueuesFit p) (m : MasterId) : (T.popOut m).QueuesFit p := by
  refine ⟨h.1, fun n => ?_⟩
  rw [Tile.popOut_outQ, getElem_set_fin]
  split
  · rw [List.length_tail]; exact (Nat.sub_le _ _).trans (h.2 m)
  · exact h.2 n

theorem Tile.QueuesFit.pushOut {p : Config.Params} {T : Tile} {ms : List MasterId} (h : T.QueuesFit p)
    (hq : T.spaceAll p.portDepth ms = true) (w : StreamWord) : (T.pushOut ms w).QueuesFit p := by
  refine ⟨fun x => by rw [Tile.pushOut_inQ]; exact h.1 x, fun m => ?_⟩
  rw [Tile.pushOut_at]
  split
  · rw [List.length_append]; exact (Tile.spaceAll_iff _ _ _).1 hq m ‹_›
  · exact h.2 m

/-- Every agent that appends to a queue waits for space in it. -/
theorem TileMove.keeps_queues {p : Config.Params} {T T' : Tile} (m : TileMove p T T') (h : T.QueuesFit p) : T'.QueuesFit p := by
  cases m with
  | ctrl c v => simpa only [Tile.QueuesFit, Tile.writeCtrl_inQ, Tile.writeCtrl_outQ] using h
  | header c b w hr hp hs hq => exact h.pushIn hq w
  | send c b w hr hp hs hq => exact h.pushIn hq w
  | store c b wa v hr hp hs hw =>
    have hstored : Tile.QueuesFit p { T with dm := writeWord T.dm wa v } := h
    exact hstored.popOut _
  | circuit x w hq => exact (h.popIn x).pushOut hq w
  | forward x r w hr ha hm hq => exact (h.popIn x).pushOut hq w
  | push x w hq => exact h.pushIn hq w
  | pop n d => exact h.popOut n
  | _ => exact h

/-- Settles O10: a move that appends to a queue is made only where that queue has space. -/
theorem queueBoundKept : Obligations.QueueBoundKept :=
  fun _ _ h hs => step_keeps_tiles (P := fun p T => T.QueuesFit p) TileMove.keeps_queues hs h

/-! ### Walkers (R41, R42, R259 to R270) -/

/-- Every walker of a tile is in one of its legal conditions. -/
def Tile.WalkersFit (p : Config.Params) (T : Tile) : Prop :=
  ∀ c : ChIx, (T.walker[c]).Inv (T.layout p) c T.ctrl[c].val

theorem Tile.WalkersFit.congr {p : Config.Params} {T T' : Tile} (h : T.WalkersFit p) (hr : T'.ref = T.ref)
    (hc : T'.ctrl = T.ctrl) (hw : T'.walker = T.walker) : T'.WalkersFit p := by
  simpa only [Tile.WalkersFit, Tile.layout, hr, hc, hw] using h

theorem Tile.WalkersFit.set {p : Config.Params} {T T' : Tile} {c : ChIx} {w : Walker} (h : T.WalkersFit p)
    (hi : w.Inv (T.layout p) c T.ctrl[c].val) (hr : T'.ref = T.ref) (hc : T'.ctrl = T.ctrl)
    (hw : T'.walker = T.walker.set c w) : T'.WalkersFit p := by
  intro d
  simp only [Tile.layout, hr, hc, hw, getElem_set_fin]
  split
  · rename_i hcd; subst hcd; exact hi
  · exact h d

section

variable {L : Config.Layout} {c : ChIx} {x : Word} {w : Walker} {b : HwBd}

theorem Walker.Inv.of_ctrl {y : Word} (h : w.Inv L c x) (hy : ctrlReset L y = false) : w.Inv L c y :=
  ⟨fun hn => absurd (hy.symm.trans hn) Bool.false_ne_true, h.2⟩

/-- An Idle walker has no snapshot and no count. -/
theorem Walker.Inv.of_idle (h : w.Inv L c x) (hp : w.phase = .idle) : w.snap = none ∧ w.done = 0 := by
  have h2 := h.2
  rw [hp] at h2
  cases hs : w.snap with
  | none => rw [hs] at h2; exact ⟨rfl, h2⟩
  | some b => rw [hs] at h2; exact h2.elim

/-- A walker without snapshot and count may be Idle in every state of its channel. -/
theorem Walker.inv_idle (hp : w.phase = .idle) (hs : w.snap = none) (hd : w.done = 0) : w.Inv L c x :=
  ⟨fun _ => hp, by rw [hp, hs]; exact hd⟩

theorem Walker.inv_fetch (hr : ctrlReset L x = false) (hp : w.phase = .fetch) (hs : w.snap = none) (hd : w.done = 0) :
    w.Inv L c x := ⟨fun hn => absurd (hr.symm.trans hn) Bool.false_ne_true, by rw [hp, hs]; exact hd⟩

/-- The start-pending mark is no part of a walker's condition. -/
theorem Walker.Inv.startPending (h : w.Inv L c x) : { w with startPending := true }.Inv L c x := h

theorem Walker.Inv.start (h : w.Inv L c x) (hr : ctrlReset L x = false) (hp : w.phase = .idle) (n : BdIx) :
    { w with cur := n, startPending := false, phase := .fetch }.Inv L c x :=
  Walker.inv_fetch hr rfl (h.of_idle hp).1 (h.of_idle hp).2

theorem Walker.inv_fetched {buf : Slot} (hr : ctrlReset L x = false) (hb : b.Runnable buf) :
    { w with snap := some b, buf := buf, done := 0, phase := .acquire }.Inv L c x :=
  ⟨fun hn => absurd (hr.symm.trans hn) Bool.false_ne_true, hb, rfl⟩

/-- After the acquire a memory-to-stream channel with packets enabled sends a header; every other transfers (R263). -/
theorem Walker.Inv.acquired (h : w.Inv L c x) (hr : ctrlReset L x = false) (hp : w.phase = .acquire)
    (hs : w.snap = some b) : { w with phase := afterAcquire c b }.Inv L c x := by
  have h2 := h.2
  rw [hp, hs] at h2
  obtain ⟨hrun, hd⟩ := h2
  refine ⟨fun hn => absurd (hr.symm.trans hn) Bool.false_ne_true, ?_⟩
  rw [hs]
  by_cases hh : (isMm2s c && b.fields.pktEn) = true
  · obtain ⟨hmm2s, hpkt⟩ := Bool.and_eq_true _ _ ▸ hh
    simp only [afterAcquire, if_pos hh]
    exact ⟨hrun, hd, hmm2s, hpkt⟩
  · simp only [afterAcquire, if_neg hh]
    exact ⟨hrun, hd ▸ Nat.succ_pos _⟩

theorem Walker.Inv.headerSent (h : w.Inv L c x) (hr : ctrlReset L x = false) (hp : w.phase = .header)
    (hs : w.snap = some b) : { w with phase := .transfer }.Inv L c x := by
  have h2 := h.2
  rw [hp, hs] at h2
  obtain ⟨hrun, hd, -, -⟩ := h2
  refine ⟨fun hn => absurd (hr.symm.trans hn) Bool.false_ne_true, ?_⟩
  rw [hs]
  exact ⟨hrun, hd ▸ Nat.succ_pos _⟩

/-- The word that completes the count ends the transfer (R270). -/
theorem Walker.Inv.moved (h : w.Inv L c x) (hr : ctrlReset L x = false) (hp : w.phase = .transfer)
    (hs : w.snap = some b) : (w.moved b).Inv L c x := by
  have h2 := h.2
  rw [hp, hs] at h2
  obtain ⟨hrun, hd⟩ := h2
  refine ⟨fun hn => absurd (hr.symm.trans hn) Bool.false_ne_true, ?_⟩
  simp only [Walker.moved, hp, hs]
  by_cases hlast : w.done + 1 = b.words
  · simp only [if_pos hlast]; exact ⟨hrun, hlast⟩
  · simp only [if_neg hlast]; exact ⟨hrun, by omega⟩

theorem Walker.Inv.released (h : w.Inv L c x) (hr : ctrlReset L x = false) (hp : w.phase = .release)
    (hs : w.snap = some b) : { w with phase := .advance }.Inv L c x := by
  have h2 := h.2
  rw [hp, hs] at h2
  refine ⟨fun hn => absurd (hr.symm.trans hn) Bool.false_ne_true, ?_⟩
  rw [hs]
  exact h2

theorem Walker.inv_advanced (hr : ctrlReset L x = false) (enable : Bool) : (w.advanced enable b).Inv L c x := by
  unfold Walker.advanced
  split
  · exact Walker.inv_fetch hr rfl rfl rfl
  · exact Walker.inv_idle rfl rfl rfl

end

/-- A control register written with `Reset` resets its walker, and without it holds no walker Idle (R251). -/
theorem Tile.WalkersFit.writeCtrl {p : Config.Params} {T : Tile} (h : T.WalkersFit p) (c : ChIx) (v : Word) :
    (T.writeCtrl (T.layout p) c v).WalkersFit p := by
  intro d
  have hl : (T.writeCtrl (T.layout p) c v).layout p = T.layout p := by simp only [Tile.layout, Tile.writeCtrl_ref]
  rw [hl]
  simp only [Tile.writeCtrl_ctrl, Tile.writeCtrl_walker, getElem_set_fin]
  by_cases hcd : c = d
  · subst hcd
    rw [if_pos rfl]
    split
    · rw [getElem_set_fin, if_pos rfl]; exact Walker.inv_idle rfl rfl rfl
    · rename_i hv; exact (h c).of_ctrl (Bool.not_eq_true _ ▸ hv)
  · rw [if_neg hcd]
    split
    · rw [getElem_set_fin, if_neg hcd]; exact h d
    · exact h d

/-- Every move leads each walker from one legal condition to another. -/
theorem TileMove.keeps_walkers {p : Config.Params} {T T' : Tile} (m : TileMove p T T') (h : T.WalkersFit p) :
    T'.WalkersFit p := by
  cases m with
  | ctrl c v => exact h.writeCtrl c v
  | startBd c v hi => exact h.set (h c).startPending rfl rfl rfl
  | start c hr hp => exact h.set ((h c).start hr hp _) rfl rfl rfl
  | abandon c => exact h.set (Walker.inv_idle rfl rfl rfl) rfl rfl rfl
  | fetch c b buf hr hp hb => exact h.set (Walker.inv_fetched hr hb) rfl rfl rfl
  | acquire c b lock hr hp hs => exact h.set ((h c).acquired hr hp hs) rfl rfl rfl
  | header c b w hr hp hs hq => exact h.set ((h c).headerSent hr hp hs) rfl rfl rfl
  | send c b w hr hp hs hq => exact h.set ((h c).moved hr hp hs) rfl rfl rfl
  | store c b wa v hr hp hs hw => exact h.set ((h c).moved hr hp hs) rfl rfl rfl
  | release c b lock hr hp hs => exact h.set ((h c).released hr hp hs) rfl rfl rfl
  | advance c b enable abCur hr => exact h.set (Walker.inv_advanced hr enable) rfl rfl rfl
  | _ => exact h.congr (by simp) (by simp) (by simp)

/-- Settles O11: each move of a walker leads from the condition of its phase to that of the next. -/
theorem walkerInvKept : Obligations.WalkerInvKept :=
  fun _ _ h hs => step_keeps_tiles (P := fun p T => T.WalkersFit p) TileMove.keeps_walkers hs h

/-! ### Arbiters and packets in flight (R48, R84, R353 to R356) -/

/-- A move leaves every packet in flight and every arbiter alone, or starts a packet, or forwards a word of one. -/
theorem TileMove.packets {p : Config.Params} {T T' : Tile} (m : TileMove p T T') :
    (T'.pktRoute = T.pktRoute ∧ T'.arbOwner = T.arbOwner)
      ∨ (∃ (x : SlaveId) (a : BitVec 3) (ms : BitVec 2), T.pktRoute[x] = none ∧ T.packetTargets p a ms ≠ []
          ∧ T' = { T with pktRoute := T.pktRoute.set x (some ⟨T.packetTargets p a ms, a, true⟩) })
      ∨ ∃ (x : SlaveId) (r : PktRoute) (w : StreamWord), T.pktRoute[x] = some r ∧ T.arbFree r.arb x = true
          ∧ T.mastersFree x r = true ∧ T' = T.forward p x r w := by
  cases m with
  | pktStart x a ms hn ht => exact .inr (.inl ⟨x, a, ms, hn, ht, rfl⟩)
  | forward x r w hr ha hm hq => exact .inr (.inr ⟨x, r, w, hr, ha, hm, rfl⟩)
  | _ => exact .inl ⟨by simp, by simp⟩

/-- The targets of a packet are masters of the tile (R355). -/
theorem Tile.lt_of_mem_packetTargets {T : Tile} {p : Config.Params} {a : BitVec 3} {ms : BitVec 2} {m : MasterId}
    (h : m ∈ T.packetTargets p a ms) : m.val < p.nMasters T.ref.kind := mem_masters.1 (List.mem_of_mem_filter h)

/-- A packet start leaves the arbiters alone: the header is yet to be forwarded (R352). -/
theorem Tile.ArbiterInv.pktStart {p : Config.Params} {T : Tile} (h : T.ArbiterInv p) {x : SlaveId} {a : BitVec 3}
    {ms : BitVec 2} (hn : T.pktRoute[x] = none) (ht : T.packetTargets p a ms ≠ []) :
    Tile.ArbiterInv p { T with pktRoute := T.pktRoute.set x (some ⟨T.packetTargets p a ms, a, true⟩) } := by
  obtain ⟨howner, htargets, hapart⟩ := h
  have hbegun : ∀ {y : SlaveId} {r : PktRoute},
      (T.pktRoute.set x (some ⟨T.packetTargets p a ms, a, true⟩))[y] = some r → r.first = false → T.pktRoute[y] = some r := by
    intro y r hy hf
    rw [getElem_set_fin] at hy
    split at hy
    · cases hy; cases hf
    · exact hy
  refine ⟨fun b y => ?_, fun y r hy => ?_, fun y y' r r' hy hy' hf hf' =>
    hapart y y' r r' (hbegun hy hf) (hbegun hy' hf') hf hf'⟩
  · rw [howner b y]
    constructor
    · rintro ⟨r, hr, hb, hf⟩
      have hxy : x ≠ y := fun e => by subst e; rw [hn] at hr; cases hr
      exact ⟨r, by rw [getElem_set_fin, if_neg hxy]; exact hr, hb, hf⟩
    · rintro ⟨r, hr, hb, hf⟩
      exact ⟨r, hbegun hr hf, hb, hf⟩
  · rw [getElem_set_fin] at hy
    split at hy
    · cases hy; exact ⟨ht, fun m hm => T.lt_of_mem_packetTargets hm⟩
    · exact htargets y r hy

/-- An arbiter that slave `x` may use is held by no other slave. -/
theorem Tile.not_held_of_arbFree {T : Tile} {a : BitVec 3} {x y : SlaveId} (h : T.arbFree a x = true) (hy : y ≠ x) :
    T.arbOwner[arbIx a] ≠ some y := by
  simp only [Tile.arbFree, Bool.or_eq_true, beq_iff_eq] at h
  rintro he
  rw [he] at h
  rcases h with h | h
  · cases h
  · exact hy (Option.some.inj h)

/-- The route of each slave after a packet word: as before, but the slave's own, which is free after the last word and else
in the midst of its packet (R353, R354). -/
theorem Tile.forward_pktRoute_at {T : Tile} {p : Config.Params} {x y : SlaveId} {r r' : PktRoute} {w : StreamWord}
    (h : (T.forward p x r w).pktRoute[y] = some r') :
    (y = x ∧ w.last = false ∧ r' = { r with first := false }) ∨ (y ≠ x ∧ T.pktRoute[y] = some r') := by
  rw [Tile.forward_pktRoute, getElem_set_fin] at h
  split at h
  · rename_i hxy
    cases hl : w.last with
    | true => rw [hl] at h; cases h
    | false => rw [hl] at h; cases h; exact .inl ⟨hxy.symm, rfl, rfl⟩
  · exact .inr ⟨Ne.symm ‹_›, h⟩

/-- A forwarded word keeps its arbiter for its slave, the last word frees both; no other slave holds the arbiter or is in
the midst of a packet to one of the masters (R353, R354, R356). -/
theorem Tile.ArbiterInv.forward {p : Config.Params} {T : Tile} (h : T.ArbiterInv p) {x : SlaveId} {r : PktRoute}
    (hr : T.pktRoute[x] = some r) (ha : T.arbFree r.arb x = true) (hm : T.mastersFree x r = true) (w : StreamWord) :
    (T.forward p x r w).ArbiterInv p := by
  obtain ⟨howner, htargets, hapart⟩ := h
  have hothers := Tile.mastersFree_iff.1 hm
  refine ⟨fun b y => ?owner, fun y r' hy => ?targets, fun y y' s s' hy hy' hf hf' m hms hms' => ?apart⟩
  case owner =>
    rw [Tile.forward_arbOwner, Tile.forward_pktRoute, getElem_set_fin, getElem_set_fin]
    by_cases hyx : x = y
    · subst hyx
      rw [if_pos rfl]
      by_cases hb : arbIx r.arb = b
      · rw [if_pos hb]; cases w.last <;> simp [hb]
      · have hnot : T.arbOwner[b] ≠ some x := fun he => by
          obtain ⟨r', hr', hb', -⟩ := (howner b x).1 he
          cases hr.symm.trans hr'; exact hb hb'
        rw [if_neg hb]
        refine iff_of_false hnot ?_
        cases w.last <;> simp [hb]
    · rw [if_neg hyx, ← howner b y]
      by_cases hb : arbIx r.arb = b
      · rw [if_pos hb]
        refine iff_of_false ?_ (hb ▸ Tile.not_held_of_arbFree ha (Ne.symm hyx))
        cases w.last <;> simp [hyx]
      · rw [if_neg hb]
  case targets =>
    rw [Tile.forward_ref]
    rcases Tile.forward_pktRoute_at hy with ⟨rfl, -, rfl⟩ | ⟨-, hy⟩
    · exact htargets y r hr
    · exact htargets y r' hy
  case apart =>
    rcases Tile.forward_pktRoute_at hy with ⟨rfl, -, rfl⟩ | ⟨hne, hold⟩
    · rcases Tile.forward_pktRoute_at hy' with ⟨rfl, -, -⟩ | ⟨hne', hold'⟩
      · rfl
      · exact absurd hms (hothers y' s' hne' hold' hf' m hms')
    · rcases Tile.forward_pktRoute_at hy' with ⟨rfl, -, rfl⟩ | ⟨hne', hold'⟩
      · exact absurd hms' (hothers y s hne hold hf m hms)
      · exact hapart y y' s s' hold hold' hf hf' m hms hms'

theorem TileMove.keeps_arbiters {p : Config.Params} {T T' : Tile} (m : TileMove p T T') (h : T.ArbiterInv p) :
    T'.ArbiterInv p := by
  rcases m.packets with ⟨hroute, howner⟩ | ⟨x, a, ms, hn, ht, rfl⟩ | ⟨x, r, w, hr, ha, hm, rfl⟩
  · simpa only [Tile.ArbiterInv, hroute, howner, m.ref] using h
  · exact h.pktStart hn ht
  · exact h.forward hr ha hm w

/-- Settles O12: only a packet start and a forwarded word touch routes and arbiters, and both keep the invariant. -/
theorem arbiterInvKept : Obligations.ArbiterInvKept :=
  fun _ _ h hs => step_keeps_tiles (P := fun p T => T.ArbiterInv p) TileMove.keeps_arbiters hs h

end Sys2Proof.Machine
end

section
/-! PROOF. What one instruction can do (O7, O15 to O18): a fault or refusal recorded stays, a tile that is not the
instruction's own stays, and of its own tile the descriptors, the locks and data memory change only in the ways listed by
`TileEffect`.  Every meaning is followed once with the relation `Effect`, which the shared operations keep. -/

namespace Sys2Proof.Machine

/-! ### The effect of an instruction on its tile -/

/-- The part of a tile that only the instructions listed in `TileEffect` change. -/
structure TileCore where
  bdw : Vector (Vector RegCell 7) 16
  abCur : Vector Slot 16
  lock : Vector Lock 16
  dm : Memory

/-- The descriptor words, the buffer bits, the locks and the data memory of a tile. -/
def Tile.core (T : Tile) : TileCore := ⟨T.bdw, T.abCur, T.lock, T.dm⟩

/-- The lock of an address slot is the one its field names (R169). -/
theorem SlotFields.lockId_eq_lock (f : SlotFields) : f.lockId.toNat = f.lock.val :=
  (Nat.mod_eq_of_lt f.lockId.isLt).symm

/-- Instruction `i` requests lock `l` of tile `t` (R26, R30): a host read of a lock-request offset, a walker whose snapshot
names the lock in the slot of its buffer, or the environment. -/
def RequestsLock (T : Tile) (i : Instr) (t : TileId) (l : LockIx) : Prop :=
  i ∈ [.lockAcqNvRd t l, .lockAcqV0Rd t l, .lockAcqV1Rd t l, .lockRelNvRd t l, .lockRelV0Rd t l, .lockRelV1Rd t l,
       .lockAcqNvRdBt t l, .lockAcqV0RdBt t l, .lockAcqV1RdBt t l, .lockRelNvRdBt t l, .lockRelV0RdBt t l,
       .lockRelV1RdBt t l]
  ∨ (∃ (c : ChIx) (b : HwBd), (i = .walkAcquire t c ∨ i = .walkRelease t c) ∧ (T.walker[c]).snap = some b
      ∧ (b.fields.slot (T.walker[c]).buf).lockId.toNat = l.val)
  ∨ ∃ who q, i = .envStep t (.lock who l q)

/-- Instruction `i` stores to word `wa` of tile `t` (R89, R270, R314). -/
def StoresWord (p : Config.Params) (T : Tile) (i : Instr) (t : TileId) (wa : Nat) : Prop :=
  (∃ v, i = .dmWr t wa v) ∨ (∃ who v, i = .envStep t (.write who wa v))
  ∨ ∃ (c : ChIx) (b : HwBd), i = .walkTransfer t c ∧ c.val < 2 ∧ (T.walker[c]).snap = some b
      ∧ wa = addrGen2D p.addrGen (b.addr2D (T.walker[c]).buf) (T.walker[c]).done

/-- What instruction `i` makes of the descriptors, the locks and the data memory of its tile `t`: nothing, or one of the
four changes that R24, R26, R34 and R46 give it. -/
inductive TileEffect (p : Config.Params) (i : Instr) (t : TileId) (T T' : Tile) : Prop
  | rest (h : T'.core = T.core)
  | descriptor (n k v) (hi : i = .bdWr t n k v) (h : T'.core = (T.writeBd n k v).core)
  | advance (c x) (hi : i = .walkAdvance t c) (h : T'.core = { T.core with abCur := T.abCur.set (T.walker[c]).cur x })
  | lock (l L) (hi : RequestsLock T i t l) (h : T'.core = { T.core with lock := T.lock.set l L })
  | store (wa v) (hi : StoresWord p T i t wa) (h : T'.core = { T.core with dm := writeWord T.dm wa v })

/-- The effect of an instruction on the machine: recorded faults and refusals stay (R55), only a command touches the engines
and the host's program, and only the instruction's own tile changes (R385). -/
structure Effect (i : Instr) (s s' : State) : Prop where
  faults : ∃ l, s'.faults = s.faults ++ l
  refusal : s.refusal.isSome = true → s'.refusal.isSome = true
  host : i.touches ≠ none → s'.host.eng = s.host.eng ∧ s'.host.queue = s.host.queue
  tile : ∀ u, s'.tile u = s.tile u ∨ (i.touches = some u ∧ TileEffect s.params i u (s.tile u) (s'.tile u))

namespace Effect

variable {i : Instr} {s s' : State} {t : TileId}

/-! ### The shared operations -/

/-- An effect that is a change of the instruction's own tile: no fault, no refusal, no engine and no queue changes. -/
theorem own (ht : i.touches = some t) (hu : ∀ u, u ≠ t → s'.tile u = s.tile u)
    (hm : TileEffect s.params i t (s.tile t) (s'.tile t)) (hf : s'.faults = s.faults := by rfl)
    (hr : s'.refusal = s.refusal := by rfl)
    (hh : s'.host.eng = s.host.eng ∧ s'.host.queue = s.host.queue := by exact ⟨rfl, rfl⟩) : Effect i s s' where
  faults := ⟨[], by rw [hf, List.append_nil]⟩
  refusal h := by rw [hr]; exact h
  host _ := hh
  tile u := by
    by_cases h : u = t
    · subst h; exact .inr ⟨ht, hm⟩
    · exact .inl (hu u h)

/-- A change of the instruction's tile. -/
theorem mod {f : Tile → Tile} (ht : i.touches = some t) (hm : TileEffect s.params i t (s.tile t) (f (s.tile t))) :
    Effect i s (s.modTile t f) :=
  own ht (fun u hu => State.modTile_tile_ne s t u f hu) (by rw [State.modTile_tile_same]; exact hm)

/-- No tile, no fault, no refusal, no engine and no queue changes. -/
theorem of_same (ht : s'.tiles = s.tiles := by rfl) (hf : s'.faults = s.faults := by rfl)
    (hr : s'.refusal = s.refusal := by rfl)
    (hh : i.touches ≠ none → s'.host.eng = s.host.eng ∧ s'.host.queue = s.host.queue := by exact fun _ => ⟨rfl, rfl⟩) :
    Effect i s s' where
  faults := ⟨[], by rw [hf, List.append_nil]⟩
  refusal h := by rw [hr]; exact h
  host := hh
  tile u := .inl (by simp only [State.tile, ht])

/-- A command changes the host's side only. -/
theorem command (hi : i.touches = none) (ht : s'.tiles = s.tiles := by rfl) (hf : s'.faults = s.faults := by rfl)
    (hr : s'.refusal = s.refusal := by rfl) : Effect i s s' := of_same ht hf hr fun h => absurd hi h

theorem raise (f : Fault) : Effect i s (s.raise f) where
  faults := ⟨[f], rfl⟩
  refusal h := h
  host _ := ⟨rfl, rfl⟩
  tile _ := .inl rfl

theorem refuse (r : Refusal) : Effect i s (s.refuse r) where
  faults := ⟨[], (List.append_nil _).symm⟩
  refusal _ := rfl
  host _ := ⟨rfl, rfl⟩
  tile _ := .inl rfl

theorem drew (h : Effect i s s') (n : Nat) : Effect i s (s'.drew n) := ⟨h.faults, h.refusal, h.host, h.tile⟩

theorem of_drew {n : Nat} (h : Effect i (s.drew n) s') : Effect i s s' := ⟨h.faults, h.refusal, h.host, h.tile⟩

theorem hostReads (h : Effect i s s') (w : Word) : Effect i s (s'.hostReads w) := ⟨h.faults, h.refusal, h.host, h.tile⟩

theorem raiseNext (h : Effect i s s') (f : Fault) : Effect i s (s'.raiseNext f) := ⟨h.faults, h.refusal, h.host, h.tile⟩

theorem onKind {k : TileKind} {off : Nat} (h : Effect i s s') : Effect i s (onKind k t off s s') := by
  unfold Machine.onKind; split
  · exact h
  · exact raise _

theorem below {x n off : Nat} (h : Effect i s s') : Effect i s (below x n off s s') := by
  unfold Machine.below; split
  · exact h
  · exact raise _

theorem onEngine {e : TileId} (h : Effect i s s') : Effect i s (onEngine e s s') := by
  unfold Machine.onEngine; split
  · exact h
  · exact refuse _

theorem checked {cs : List (Bool × ErrReason)} (hi : i.touches = none) (h : Effect i s s') :
    Effect i s (checked cs s s') := by
  rcases checked_cases cs s s' with ⟨e, -, hc⟩ | ⟨-, hc⟩ <;> rw [hc]
  · exact command hi
  · exact h

theorem runSub {c : SubCommand} (hi : i.touches = none) : Effect i s (runSub c s) := by
  cases c with
  | error e => exact command hi
  | ok ops => exact command hi

theorem setter {e : TileId} {n : Nat} {cs : List (Bool × ErrReason)} {f : MirrorBd → MirrorBd} (hi : i.touches = none) :
    Effect i s (setter e n cs f s) := onEngine (checked hi (command hi))

theorem lockCommand {a : Bool} {l : Nat} {v : ValArg} {timeout : Nat} (hi : i.touches = none) :
    Effect i s (lockCommand a t l v timeout s) := checked hi (command hi)

/-- A lock request stores what the lock step gives (R151). -/
theorem lockRequest {who : Agent} {l : LockIx} {q : LockKind} (ht : i.touches = some t)
    (hi : RequestsLock (s.tile t) i t l) : Effect i s (s.lockRequest who t l q) :=
  own ht (fun u hu => State.lockRequest_tile_ne _ _ _ _ _ _ hu) (by rw [State.lockRequest_tile_same]; exact .lock l _ hi rfl)

/-- A host read of a lock-request offset (R152). -/
theorem lockRead {k : TileKind} {l : LockIx} {q : LockKind} (ht : i.touches = some t)
    (hi : RequestsLock (s.tile t) i t l) : Effect i s (lockRead k t l q s) := onKind ((lockRequest ht hi).hostReads _)

theorem lockWrite {k : TileKind} {l : LockIx} {op : Nat} : Effect i s (lockWrite k t l op s) := onKind (below (raise _))

/-- A data-memory write stores one word (R73). -/
theorem dmWrite {who : Agent} {wa : Nat} {v : Word} (ht : i.touches = some t)
    (hi : StoresWord s.params (s.tile t) i t wa) : Effect i s (s.dmWrite who t wa v) :=
  own ht (fun u hu => State.dmWrite_tile_ne _ _ _ _ _ _ hu) (by rw [State.dmWrite_tile_same]; exact .store wa v hi rfl)

theorem switchStep {k : State → State} (h : ∀ n, Effect i (s.drew n) (k (s.drew n))) : Effect i s (switchStep t s k) := by
  rcases switchStep_cases t s k with e | e | ⟨f, e, -⟩ <;> rw [e]
  · exact (h 0).of_drew
  · exact (h 1).of_drew
  · exact raise f

/-! ### Walkers -/

/-- A walker that changes and nothing else. -/
theorem setWalker {c : ChIx} {w : Walker} (ht : i.touches = some t) : Effect i s (s.setWalker t c w) := mod ht (.rest rfl)

theorem fetchBd (t : TileId) (c : ChIx) (s : State) : Effect (.walkFetch t c) s (fetchBd t c s) := by
  simp only [Machine.fetchBd]
  split
  · exact raise _
  · split
    · exact raise _
    · split
      · exact refuse _
      · split
        · exact refuse _
        · exact setWalker rfl

theorem acquireBd {c : ChIx} {b : HwBd} (hs : ((s.tile t).walker[c]).snap = some b) :
    Effect (.walkAcquire t c) s (acquireBd t c b s) := by
  simp only [Machine.acquireBd]
  split_ifs
  · exact setWalker rfl
  · refine own (t := t) rfl (fun u hu => ?_) ?_
    · rw [State.setWalker_tile_ne _ _ _ _ _ hu, State.lockRequest_tile_ne _ _ _ _ _ _ hu]
    · rw [State.setWalker_tile_same, State.lockRequest_tile_same]
      exact .lock _ _ (.inr (.inl ⟨c, b, .inl rfl, hs, SlotFields.lockId_eq_lock _⟩)) rfl
  · exact of_same

theorem releaseBd {c : ChIx} {b : HwBd} (hs : ((s.tile t).walker[c]).snap = some b) :
    Effect (.walkRelease t c) s (releaseBd t c b s) := by
  have hreq : RequestsLock (s.tile t) (.walkRelease t c) t (b.fields.slot (s.walker t c).buf).lock :=
    .inr (.inl ⟨c, b, .inr rfl, hs, SlotFields.lockId_eq_lock _⟩)
  simp only [Machine.releaseBd]
  split_ifs
  · exact setWalker rfl
  · refine own (t := t) rfl (fun u hu => ?_) ?_
    · rw [State.setWalker_tile_ne _ _ _ _ _ hu, State.lockRequest_tile_ne _ _ _ _ _ _ hu]
    · rw [State.setWalker_tile_same, State.lockRequest_tile_same]
      exact .lock _ _ hreq rfl
  · exact lockRequest rfl hreq

theorem sendHeader {c : ChIx} {b : HwBd} : Effect (.walkHeader t c) s (sendHeader t c b s) := by
  simp only [Machine.sendHeader]
  split
  · exact mod rfl (.rest rfl)
  · exact of_same

theorem sendWord {c : ChIx} {b : HwBd} : Effect (.walkTransfer t c) s (sendWord t c b s) := by
  simp only [Machine.sendWord]
  split_ifs
  · exact raise _
  · exact of_drew (mod rfl (.rest rfl))
  · exact of_same

/-- A stream-to-memory channel stores at the address of the next word (R270). -/
theorem storeWord {c : ChIx} {b : HwBd} (hc : isMm2s c = false) (hs : ((s.tile t).walker[c]).snap = some b) :
    Effect (.walkTransfer t c) s (storeWord t c b s) := by
  have hlt : c.val < 2 := by simpa [isMm2s] using hc
  simp only [Machine.storeWord]
  split
  · exact of_same
  · split
    · exact raise _
    · refine own (t := t) rfl (fun u hu => ?_) ?_
      · rw [State.modTile_tile_ne _ _ _ _ hu, State.dmWrite_tile_ne _ _ _ _ _ _ hu]
      · rw [State.modTile_tile_same, State.dmWrite_tile_same]
        exact .store _ _ (.inr (.inr ⟨c, b, rfl, hlt, hs, rfl⟩)) rfl

/-! ### The switch and the environment -/

theorem circuitMove (t : TileId) (p : SlaveId) (s : State) : Effect (.swCircuit t p) s (circuitMove t p s) := by
  unfold Machine.circuitMove
  split
  · exact mod rfl (.rest (by simp [Tile.core]))
  · exact of_same

theorem packetStart (t : TileId) (p : SlaveId) (s : State) : Effect (.swPktStart t p) s (packetStart t p s) := by
  simp only [Machine.packetStart]
  split
  · exact of_same
  · split
    · simp only [Machine.startPacket]
      split
      · exact raise _
      · exact raise _
      · split_ifs
        · exact raise _
        · exact raise _
        · exact (mod rfl (.rest rfl)).drew _
        · exact (mod rfl (.rest rfl)).drew _
    · exact of_same

theorem packetForward (t : TileId) (p : SlaveId) (s : State) : Effect (.swPktForward t p) s (packetForward t p s) := by
  simp only [Machine.packetForward]
  split
  · split
    · exact mod rfl (.rest (by simp [Tile.core]))
    · exact of_same
  · exact of_same

theorem envAct (t : TileId) (act : EnvAction) (s : State) : Effect (.envStep t act) s (envAct t s act) := by
  cases act with
  | push p w =>
    simp only [Machine.envAct]
    split
    · exact mod rfl (.rest rfl)
    · exact of_same
  | pop m =>
    simp only [Machine.envAct]
    split
    · exact of_same
    · exact mod rfl (.rest rfl)
  | lock who l q =>
    refine own (t := t) rfl (fun u hu => ?_) ?_
    · simp only [Machine.envAct]
      rw [State.modTile_tile_ne _ _ _ _ hu, State.lockRequest_tile_ne _ _ _ _ _ _ hu]
    · simp only [Machine.envAct]
      rw [State.modTile_tile_same, State.lockRequest_tile_same]
      exact .lock l _ (.inr (.inr ⟨who, q, rfl⟩)) rfl
  | read who wa =>
    simp only [Machine.envAct]
    exact of_drew (mod rfl (.rest rfl))
  | write who wa v => exact dmWrite rfl (.inr (.inl ⟨who, v, rfl⟩))

end Effect

/-! ### Every instruction -/

/-- The effect of every instruction. -/
theorem exec_effect (i : Instr) (s s' : State) (h : exec i s = .next s') : Effect i s s' := by
  cases i with
  | dmWr t wa v => cases h; exact .onKind (.below (.dmWrite rfl (.inl ⟨v, rfl⟩)))
  | dmRd t wa => cases h; exact .onKind (.below .of_same)
  | bdWr t n k v =>
    cases h
    have hw : Effect (.bdWr t n k v) s (s.modTile t fun T => T.writeBd n k v) := .mod rfl (.descriptor n k v rfl rfl)
    refine .onKind ?_
    split
    · exact hw.raiseNext _
    · exact hw
  | bdRd t n k =>
    cases h; refine .onKind ?_
    split
    · exact .of_same
    · exact .raise _
  | chCtrlWr t c v => cases h; exact .onKind (.mod rfl (.rest (by simp [Tile.core])))
  | chCtrlRd t c => cases h; exact .onKind .of_same
  | chStartBdWr t c v =>
    cases h; refine .onKind ?_
    split
    · exact .raise _
    · exact .mod rfl (.rest rfl)
  | chStartBdRd t c => cases h; exact .onKind .of_same
  | chStatusRd t ix => cases h; exact .onKind .of_same
  | chStatusWr t ix v => cases h; exact .onKind (.raise _)
  | lockAcqNvRd t l => cases h; exact .lockRead rfl (.inl (by simp))
  | lockAcqV0Rd t l => cases h; exact .lockRead rfl (.inl (by simp))
  | lockAcqV1Rd t l => cases h; exact .lockRead rfl (.inl (by simp))
  | lockRelNvRd t l => cases h; exact .lockRead rfl (.inl (by simp))
  | lockRelV0Rd t l => cases h; exact .lockRead rfl (.inl (by simp))
  | lockRelV1Rd t l => cases h; exact .lockRead rfl (.inl (by simp))
  | lockWr t l op v => cases h; exact .lockWrite
  | lockAcqNvRdBt t l => cases h; exact .lockRead rfl (.inl (by simp))
  | lockAcqV0RdBt t l => cases h; exact .lockRead rfl (.inl (by simp))
  | lockAcqV1RdBt t l => cases h; exact .lockRead rfl (.inl (by simp))
  | lockRelNvRdBt t l => cases h; exact .lockRead rfl (.inl (by simp))
  | lockRelV0RdBt t l => cases h; exact .lockRead rfl (.inl (by simp))
  | lockRelV1RdBt t l => cases h; exact .lockRead rfl (.inl (by simp))
  | lockWrBt t l op v => cases h; exact .lockWrite
  | mcfgWr t m v => cases h; exact .below (.mod rfl (.rest rfl))
  | mcfgRd t m => cases h; exact .below .of_same
  | scfgWr t p v => cases h; exact .below (.mod rfl (.rest rfl))
  | scfgRd t p => cases h; exact .below .of_same
  | slotWr t p k v => cases h; exact .below (.mod rfl (.rest rfl))
  | slotRd t p k => cases h; exact .below .of_same
  | walkStart t c =>
    cases h; split
    · exact .setWalker rfl
    · exact .of_same
  | walkAbandon t c =>
    cases h; split
    · exact .setWalker rfl
    · exact .of_same
  | walkFetch t c =>
    cases h; split
    · exact .fetchBd t c s
    · exact .of_same
  | walkAcquire t c =>
    cases h; split
    · exact .acquireBd ‹_›
    · exact .of_same
  | walkHeader t c =>
    cases h; split
    · exact .sendHeader
    · exact .of_same
  | walkTransfer t c =>
    cases h; split
    · rename_i b _ hs
      cases hc : isMm2s c with
      | true => exact .sendWord
      | false => exact .storeWord hc hs
    · exact .of_same
  | walkRelease t c =>
    cases h; split
    · exact .releaseBd ‹_›
    · exact .of_same
  | walkAdvance t c =>
    cases h; split
    · rename_i b _ _
      cases hab : b.fields.abMode with
      | true => exact .mod rfl (.advance c _ rfl rfl)
      | false => exact .mod rfl (.rest rfl)
    · exact .of_same
  | swCircuit t p => cases h; exact .switchStep fun _ => .circuitMove t p _
  | swPktStart t p => cases h; exact .switchStep fun _ => .packetStart t p _
  | swPktForward t p => cases h; exact .switchStep fun _ => .packetForward t p _
  | envStep t act =>
    cases h; split
    · exact .envAct t act s
    · exact .of_same
  | poll t off mask expected timeout => cases h; exact .command rfl
  | lockAcquire t l v timeout => cases h; exact .lockCommand rfl
  | lockRelease t l v timeout => cases h; exact .lockCommand rfl
  | bdSetLock e n x lockId relEn relVal acqEn acqVal => cases h; exact .setter rfl
  | bdSet2D e n axis incr wrap offset => cases h; exact .setter rfl
  | bdSetInterleave e n en which count current => cases h; exact .setter rfl
  | bdSetAddrLenMode e n baseA baseB lengthBytes dbEn fifoMode => cases h; exact .setter rfl
  | bdSetNext e n next => cases h; exact .setter rfl
  | bdSetPacket e n en type id => cases h; exact .setter rfl
  | bdClear e n => cases h; exact .setter rfl
  | bdClearAll e => cases h; exact .onEngine (.command rfl)
  | bdCommit e n => cases h; exact .onEngine (.checked rfl (.command rfl))
  | chControl e c reset enable => cases h; exact .onEngine (.runSub rfl)
  | chSetStartBd e c bd => cases h; exact .onEngine (.runSub rfl)
  | chReset e c => cases h; exact .onEngine (.checked rfl (.command rfl))
  | chResetAll e => cases h; exact .onEngine (.command rfl)
  | dmaInitialize e force =>
    cases h; refine .onEngine (.checked rfl ?_)
    split
    · exact .command rfl
    · exact .command rfl
  | ssPortId kind dir cls ix => cases h; exact .command rfl
  | ssConfigureMaster t cls ix en pktEn cfg => cases h; exact .runSub rfl
  | ssConfigureSlave t cls ix en pktEn => cases h; exact .runSub rfl
  | ssConnectCircuit t scls si mcls mi enSlave => cases h; exact .checked rfl (.command rfl)
  | ssConfigureSlot t cls ix k en id mask msel arb => cases h; exact .runSub rfl
  | ssMstrPktConfig drop mask arb => cases h; exact .checked rfl (.command rfl)

/-! ### The statements -/

/-- An execution that has recorded a fault answers its first one (R372). -/
theorem step_of_fault {s : State} {f : Fault} {fs : List Fault} (h : s.faults = f :: fs) : step s = .fault f := by
  simp only [step, oneStep, h]

/-- An execution that has recorded only a refusal answers it (R373). -/
theorem step_of_refusal {s : State} {r : Refusal} (hf : s.faults = []) (hr : s.refusal = some r) : step s = .refused r := by
  simp only [step, oneStep, hf, hr]

/-- Settles O7: by `exec_effect` for an instruction; a step that answers a next state had nothing recorded to clear. -/
theorem faultsNeverCleared : Obligations.FaultsNeverCleared := by
  refine ⟨fun q p refs => ⟨rfl, rfl, rfl⟩, fun i s s' h => ?exec, fun s s' h => ?step, fun s f fs => step_of_fault,
    fun s r => step_of_refusal⟩
  case exec => exact ⟨(exec_effect i s s' h).faults, (exec_effect i s s' h).refusal⟩
  case step =>
    obtain ⟨hf, hr, -⟩ := step_next s s' h
    exact ⟨⟨s'.faults, by rw [hf, List.nil_append]⟩, fun hs => by rw [hr] at hs; cases hs⟩

/-- A machine that has moved keeps its parameters and its tile references (R20). -/
theorem Moved.params_ref {s s' : State} (h : Moved s s') : s'.params = s.params ∧ ∀ u, (s'.tile u).ref = (s.tile u).ref :=
  ⟨h.1, fun u => (h.2 u).elim (congrArg Tile.ref) TileMove.ref⟩

/-- Settles O15: tile references and parameters by the moves, the other tiles by the effects. -/
theorem tilesAreIndependent : Obligations.TilesAreIndependent := by
  refine ⟨fun i s s' h => ?_, fun s s' h => (step_moved s s' h).params_ref⟩
  obtain ⟨hp, href⟩ := (exec_moved i s s' h).params_ref
  refine ⟨hp, fun u => ⟨href u, fun hu => ?_⟩⟩
  rcases (exec_effect i s s' h).tile u with he | ⟨ht, -⟩
  · exact he
  · exact absurd ht hu

/-- What an instruction does to the core of a tile, its own or not. -/
theorem exec_tileEffect {i : Instr} {s s' : State} (h : exec i s = .next s') (t : TileId) :
    TileEffect s.params i t (s.tile t) (s'.tile t) := by
  rcases (exec_effect i s s' h).tile t with he | ⟨-, he⟩
  · exact .rest (by rw [he])
  · exact he

/-- A place that differs after one place is set is the place set. -/
theorem eq_of_getElem_set_ne {n : Nat} {α : Type} {v : Vector α n} {a b : Fin n} {x : α} (h : (v.set a x)[b] ≠ v[b]) :
    a = b := by
  by_contra hab
  exact h (by rw [getElem_set_fin, if_neg hab])

section

variable {p : Config.Params} {i : Instr} {t : TileId} {T T' : Tile}

theorem TileEffect.lock_cases (e : TileEffect p i t T T') :
    T'.lock = T.lock ∨ ∃ l L, RequestsLock T i t l ∧ T'.lock = T.lock.set l L := by
  cases e with
  | lock l L hi h => exact .inr ⟨l, L, hi, (congrArg TileCore.lock h :)⟩
  | rest h => exact .inl (congrArg TileCore.lock h :)
  | descriptor n k v hi h => exact .inl (congrArg TileCore.lock h :)
  | advance c x hi h => exact .inl (congrArg TileCore.lock h :)
  | store wa v hi h => exact .inl (congrArg TileCore.lock h :)

theorem TileEffect.bdw_cases (e : TileEffect p i t T T') :
    T'.bdw = T.bdw ∨ ∃ n k v, i = .bdWr t n k v ∧ T'.bdw = T.bdw.set n (T.bdw[n].set k (.write v)) := by
  cases e with
  | descriptor n k v hi h => exact .inr ⟨n, k, v, hi, (congrArg TileCore.bdw h :)⟩
  | rest h => exact .inl (congrArg TileCore.bdw h :)
  | advance c x hi h => exact .inl (congrArg TileCore.bdw h :)
  | lock l L hi h => exact .inl (congrArg TileCore.bdw h :)
  | store wa v hi h => exact .inl (congrArg TileCore.bdw h :)

theorem TileEffect.abCur_cases (e : TileEffect p i t T T') :
    T'.abCur = T.abCur ∨ (∃ n v, i = .bdWr t n 6 v ∧ T'.abCur = T.abCur.set n .a)
      ∨ ∃ c x, i = .walkAdvance t c ∧ T'.abCur = T.abCur.set (T.walker[c]).cur x := by
  cases e with
  | descriptor n k v hi h =>
    have hab : T'.abCur = (T.writeBd n k v).abCur := congrArg TileCore.abCur h
    rw [Tile.writeBd_abCur] at hab
    split at hab
    · rename_i hk; exact .inr (.inl ⟨n, v, hk ▸ hi, hab⟩)
    · exact .inl hab
  | advance c x hi h => exact .inr (.inr ⟨c, x, hi, (congrArg TileCore.abCur h :)⟩)
  | rest h => exact .inl (congrArg TileCore.abCur h :)
  | lock l L hi h => exact .inl (congrArg TileCore.abCur h :)
  | store wa v hi h => exact .inl (congrArg TileCore.abCur h :)

theorem TileEffect.dm_cases (e : TileEffect p i t T T') :
    T'.dm = T.dm ∨ ∃ wa v, StoresWord p T i t wa ∧ T'.dm = writeWord T.dm wa v := by
  cases e with
  | store wa v hi h => exact .inr ⟨wa, v, hi, (congrArg TileCore.dm h :)⟩
  | rest h => exact .inl (congrArg TileCore.dm h :)
  | descriptor n k v hi h => exact .inl (congrArg TileCore.dm h :)
  | advance c x hi h => exact .inl (congrArg TileCore.dm h :)
  | lock l L hi h => exact .inl (congrArg TileCore.dm h :)

end

/-- Settles O16: the locks of a tile stay, or the one that the instruction requests is set. -/
theorem onlyRequestsChangeLocks : Obligations.OnlyRequestsChangeLocks := by
  intro i s s' t l h hne
  rcases (exec_tileEffect h t).lock_cases with he | ⟨l', L, hi, he⟩
  · exact absurd (by rw [he]) hne
  · rw [he] at hne
    cases eq_of_getElem_set_ne hne
    exact hi

/-- Settles O17: the words of the descriptors stay, or `BD_WR` sets its word; the buffer bits stay, or `BD_WR` of word 6 or an
advance sets one. -/
theorem onlyHostChangesDescriptors : Obligations.OnlyHostChangesDescriptors := by
  intro i s s' t n h
  refine ⟨fun k hne => ?words, fun hne => ?bits⟩
  case words =>
    rcases (exec_tileEffect h t).bdw_cases with he | ⟨n', k', v, rfl, he⟩
    · exact absurd (by rw [he]) hne
    · rw [he] at hne
      cases eq_of_getElem_set_ne (ne_of_apply_ne (fun w : Vector RegCell 7 => w[k]) hne)
      rw [getElem_set_fin, if_pos rfl] at hne
      cases eq_of_getElem_set_ne hne
      exact ⟨v, rfl⟩
  case bits =>
    rcases (exec_tileEffect h t).abCur_cases with he | ⟨n', v, rfl, he⟩ | ⟨c, x, rfl, he⟩
    · exact absurd (by rw [he]) hne
    · rw [he] at hne
      cases eq_of_getElem_set_ne hne
      exact .inl ⟨v, rfl⟩
    · rw [he] at hne
      exact .inr ⟨c, rfl, eq_of_getElem_set_ne hne⟩

/-- Settles O18: data memory stays, or the one word that the instruction stores to is written. -/
theorem onlyStoresChangeMemory : Obligations.OnlyStoresChangeMemory := by
  intro i s s' t a h hne
  rcases (exec_tileEffect h t).dm_cases with he | ⟨wa, v, hi, he⟩
  · exact absurd (by rw [he]) hne
  · refine ⟨wa, ?_, hi⟩
    rw [he] at hne
    by_contra hout
    exact hne (readByte_writeWord_outside _ _ _ _ (by omega))

end Sys2Proof.Machine
end

section
/-! PROOF. What the commands can store in the engines (O13): every setter keeps the mirror BDs within `MirrorBd.Inv`, and only
indices and the sentinel are queued as start-BD marks; the rest of a turn leaves both alone. -/

namespace Sys2Proof.Machine

/-! ### The engines and the marks still queued -/

/-- An engine within what the commands can store (R50, R51). -/
def Eng.Inv (g : Eng) : Prop := (∀ c : ChIx, IsBdMark g.startBd[c]) ∧ ∀ n : BdIx, (g.bd[n]).Inv

/-- Every start-BD mark among host operations is an index or the sentinel (R281). -/
def MarksFit (ops : List HostOp) : Prop := ∀ e c x, HostOp.noteStartBd e c x ∈ ops → IsBdMark x

theorem mirrorInv_iff {s : State} : s.MirrorInv ↔ (∀ e, (s.engine e).Inv) ∧ MarksFit s.host.queue := Iff.rfl

theorem isBdMark_sentinel : IsBdMark 0xFF := .inr rfl

theorem isBdMark_ofNat {n : Nat} (h : isBdOrSentinel n = true) : IsBdMark (BitVec.ofNat 8 n) := by
  simp only [isBdOrSentinel, Bool.or_eq_true, decide_eq_true_eq, beq_iff_eq] at h
  rcases h with h | rfl
  · refine .inl ?_
    rw [BitVec.toNat_ofNat]; omega
  · exact isBdMark_sentinel

theorem MarksFit.nil : MarksFit [] := nofun

theorem MarksFit.append {a b : List HostOp} (ha : MarksFit a) (hb : MarksFit b) : MarksFit (a ++ b) :=
  fun e c x hx => (List.mem_append.1 hx).elim (ha e c x) (hb e c x)

theorem MarksFit.cons {op : HostOp} {ops : List HostOp} (ho : ∀ e c x, op = .noteStartBd e c x → IsBdMark x)
    (h : MarksFit ops) : MarksFit (op :: ops) := fun e c x hx =>
  (List.mem_cons.1 hx).elim (fun hop => ho e c x hop.symm) (h e c x)

theorem MarksFit.ret (r : CmdResult) : MarksFit [.ret r] := .cons nofun .nil

theorem MarksFit.tail {op : HostOp} {ops : List HostOp} (h : MarksFit (op :: ops)) : MarksFit ops :=
  fun e c x hx => h e c x (List.mem_cons_of_mem _ hx)

theorem engine_setEngine (s : State) (e u : TileId) (g : Eng) :
    (s.setEngine e g).engine u = if e = u then g else s.engine u := by
  simp only [State.engine, State.setEngine, getElem_set_fin]
  split <;> rfl

/-! ### Mirror BDs (R52, R194 to R200) -/

theorem MirrorBd.cleared_inv : MirrorBd.cleared.Inv := by unfold MirrorBd.Inv; decide

theorem MirrorBd.Inv.modSlot {b : MirrorBd} (h : b.Inv) (x : SlotArg) (f : SlotFields → SlotFields) : (b.modSlot x f).Inv := by
  cases x <;> exact h

theorem MirrorBd.Inv.set2D {b : MirrorBd} (h : b.Inv) (axis : AxisArg) (incr wrap offset : Nat) :
    (b.set2D axis incr wrap offset).Inv := by
  cases axis <;> exact h

theorem Eng.created_inv : Eng.created.Inv := by
  refine ⟨fun c => ?_, fun n => ?_⟩
  · simp only [Eng.created, Fin.getElem_fin, Vector.getElem_replicate]; exact isBdMark_sentinel
  · simp only [Eng.created, Fin.getElem_fin, Vector.getElem_replicate]; exact MirrorBd.cleared_inv

namespace State.MirrorInv

variable {s k : State}

/-! ### The shared operations -/

/-- The engines stay, and operations with fitting marks are put before the host's program. -/
theorem queue (h : s.MirrorInv) (ops : List HostOp) (ho : MarksFit ops) (he : k.host.eng = s.host.eng := by rfl)
    (hq : k.host.queue = ops ++ s.host.queue := by rfl) : k.MirrorInv := by
  refine mirrorInv_iff.2 ⟨fun e => ?_, ?_⟩
  · rw [State.engine, he]; exact h.1 e
  · rw [hq]; exact ho.append h.2

/-- Neither the engines nor the host's program change. -/
theorem same (h : s.MirrorInv) (he : k.host.eng = s.host.eng := by rfl) (hq : k.host.queue = s.host.queue := by rfl) :
    k.MirrorInv := h.queue [] .nil he hq

theorem setEngine (h : s.MirrorInv) (e : TileId) {g : Eng} (hg : g.Inv) : (s.setEngine e g).MirrorInv := by
  refine mirrorInv_iff.2 ⟨fun u => ?_, h.2⟩
  rw [engine_setEngine]
  split
  · exact hg
  · exact h.1 u

theorem onEngine {e : TileId} (h : s.MirrorInv) (hk : k.MirrorInv) : (onEngine e s k).MirrorInv := by
  unfold Machine.onEngine; split
  · exact hk
  · exact h.same

/-- What a command does where all its checks hold. -/
theorem checked {cs : List (Bool × ErrReason)} (h : s.MirrorInv) (hk : (∀ c ∈ cs, c.1 = true) → k.MirrorInv) :
    (checked cs s k).MirrorInv := by
  rcases checked_cases cs s k with ⟨e, -, hc⟩ | ⟨hn, hc⟩ <;> rw [hc]
  · exact h.same
  · exact hk (firstErr_none.1 hn)

theorem clearBds (h : s.MirrorInv) (e : TileId) : (s.clearBds e).MirrorInv :=
  h.setEngine e ⟨(h.1 e).1, fun n => by
    simp only [Fin.getElem_fin, Vector.getElem_replicate]; exact MirrorBd.cleared_inv⟩

/-- A setter whose change keeps a mirror BD within what can be stored, where its checks hold. -/
theorem setter {e : TileId} {n : Nat} {cs : List (Bool × ErrReason)} {f : MirrorBd → MirrorBd} (h : s.MirrorInv)
    (hf : (∀ c ∈ cs, c.1 = true) → ∀ b : MirrorBd, b.Inv → (f b).Inv) : (setter e n cs f s).MirrorInv := by
  refine h.onEngine (h.checked fun hc => ?_)
  have hmod : (s.modBd e n f).MirrorInv := by
    refine h.setEngine e ⟨(h.1 e).1, fun m => ?_⟩
    rw [getElem_set_fin]
    split
    · exact hf (fun c hm => hc c (List.mem_cons_of_mem _ hm)) _ ((h.1 e).2 _)
    · exact (h.1 e).2 m
  exact hmod.same

theorem perform {r : List HostOp × CmdResult} (h : s.MirrorInv) (hr : MarksFit r.1) : (s.perform r).MirrorInv :=
  h.queue (r.1 ++ [.ret r.2]) (hr.append (.ret _))

theorem beginPoll {t : TileId} {off mask expected timeout : Nat} (h : s.MirrorInv) :
    (beginPoll t off mask expected timeout s).MirrorInv := h.queue [.pollTry ..] (.cons nofun .nil)

end State.MirrorInv

/-! ### The operations that the commands queue -/

/-- The operations of a sub-command have fitting marks, where its checks hold. -/
def SubCommand.MarksFit (c : SubCommand) : Prop := ∀ ops, c = .ok ops → Machine.MarksFit ops

theorem subCommand_marksFit {cs : List (Bool × ErrReason)} {ops : List HostOp}
    (h : (∀ c ∈ cs, c.1 = true) → MarksFit ops) : (subCommand cs ops).MarksFit := by
  intro ops' ho
  unfold subCommand at ho
  split at ho
  · cases ho
  · cases ho; exact h (firstErr_none.1 ‹_›)

theorem inOrder_marksFit {cs : List SubCommand} (h : ∀ c ∈ cs, c.MarksFit) : MarksFit (inOrder cs).1 := by
  induction cs with
  | nil => exact .nil
  | cons c cs ih =>
    rw [List.forall_mem_cons] at h
    cases c with
    | error e => exact .nil
    | ok ops => exact (h.1 ops rfl).append (ih h.2)

theorem State.MirrorInv.runSub {s : State} {c : SubCommand} (h : s.MirrorInv) (hc : c.MarksFit) : (runSub c s).MirrorInv := by
  cases c with
  | error e => exact h.same
  | ok ops => exact h.perform (hc ops rfl)

theorem controlOps_marksFit {L : Config.Layout} {e : TileId} {c reset enable : Nat} :
    (controlOps L e c reset enable).MarksFit := subCommand_marksFit fun _ => .cons nofun .nil

/-- The mark of `ch.setStartBd` has been checked (R281). -/
theorem startBdOps_marksFit {L : Config.Layout} {e : TileId} {c bd : Nat} : (startBdOps L e c bd).MarksFit := by
  refine subCommand_marksFit fun h => ?_
  have hmark : IsBdMark (BitVec.ofNat 8 bd) := isBdMark_ofNat (h _ (List.mem_cons_of_mem _ List.mem_cons_self))
  refine MarksFit.append ?_ (.cons (fun _ _ x hx => by cases hx; exact hmark) .nil)
  split
  · exact .nil
  · exact .cons nofun .nil

theorem resetOps_marksFit {L : Config.Layout} {e : TileId} {c : Nat} : MarksFit (resetOps L e c).1 := by
  refine inOrder_marksFit fun x hx => ?_
  simp only [List.mem_cons, List.not_mem_nil, or_false] at hx
  rcases hx with rfl | rfl | rfl | rfl
  · exact subCommand_marksFit fun _ => .nil
  · exact controlOps_marksFit
  · exact controlOps_marksFit
  · exact startBdOps_marksFit

theorem resetAllOps_marksFit {L : Config.Layout} {e : TileId} : MarksFit (resetAllOps L e).1 := by
  intro u c x hx
  simp only [resetAllOps, List.mem_flatMap, List.mem_map] at hx
  obtain ⟨r, ⟨n, -, rfl⟩, hx⟩ := hx
  exact resetOps_marksFit u c x hx

/-- The marks of an engine's initialisation are sentinels (R284). -/
theorem initOps_marksFit {L : Config.Layout} {e : TileId} : MarksFit (initOps L e).1 := by
  refine (resetAllOps_marksFit.append fun u c x hx => ?_).append ?_
  · obtain ⟨d, -, hd⟩ := List.mem_map.1 hx
    cases hd; exact isBdMark_sentinel
  · split
    · exact .cons nofun .nil
    · exact .nil

theorem commitOps_marksFit {L : Config.Layout} {e : TileId} {n : BdIx} {b : MirrorBd} : MarksFit (commitOps L e n b) := by
  intro u c x hx
  obtain ⟨k, -, hk⟩ := List.mem_map.1 hx
  cases hk

theorem masterOps_marksFit {q : Config.Params} {t : TileId} {k : TileKind} {cls : PortClass} {i en pktEn cfg : Nat} :
    (masterOps q t k cls i en pktEn cfg).MarksFit := subCommand_marksFit fun _ => .cons nofun .nil

theorem slaveOps_marksFit {q : Config.Params} {t : TileId} {k : TileKind} {cls : PortClass} {i en pktEn : Nat} :
    (slaveOps q t k cls i en pktEn).MarksFit := subCommand_marksFit fun _ => .cons nofun .nil

theorem slotOps_marksFit {q : Config.Params} {t : TileId} {k : TileKind} {cls : PortClass} {i j en id mask msel arb : Nat} :
    (slotOps q t k cls i j en id mask msel arb).MarksFit := subCommand_marksFit fun _ => .cons nofun .nil

/-! ### The setters that the invariant speaks of -/

/-- An interleave count that is checked is stored whole (R196). -/
theorem MirrorBd.Inv.setIntlv {b : MirrorBd} (h : b.Inv) {count : Nat} (h4 : count % 4 = 0) (en which : Bool) (cur : BitVec 8) :
    MirrorBd.Inv { b with fields := { b.fields with
      intlvEn := en, intlvWhich := which, intlvCnt := BitVec.ofNat 8 count, intlvCur := cur } } := by
  obtain ⟨hn, hs, hm, hl, -⟩ := h
  refine ⟨hn, hs, hm, hl, ?_⟩
  show (BitVec.ofNat 8 count).toNat % 4 = 0
  rw [BitVec.toNat_ofNat]; omega

/-- The chain bit follows the sentinel (R198). -/
theorem MirrorBd.Inv.setNext {b : MirrorBd} (h : b.Inv) {next : Nat} (hnext : isBdOrSentinel next = true) :
    MirrorBd.Inv { b with nextBd := BitVec.ofNat 8 next, fields := { b.fields with nextEn := next != 0xFF } } := by
  obtain ⟨-, -, hrest⟩ := h
  simp only [isBdOrSentinel, Bool.or_eq_true, decide_eq_true_eq, beq_iff_eq] at hnext
  refine ⟨fun hen => ?_, fun hen => .inr ?_, hrest⟩
  · have hne : next ≠ 0xFF := by simpa using hen
    show (BitVec.ofNat 8 next).toNat < 16
    rw [BitVec.toNat_ofNat]; omega
  · have he : next = 0xFF := by simpa using hen
    subst he; rfl

/-- A FIFO mode is none of the reserved ones, and a length of words with the FIFO mask clear is a multiple of 4 (R197). -/
theorem MirrorBd.Inv.setLength {b : MirrorBd} (h : b.Inv) {fifo words : Nat} (hf : fifo < 3)
    (ha : words &&& fifoMask fifo = 0) (h1 : 1 ≤ words) (hw : words - 1 < 2 ^ 13) (baseA baseB : BitVec 13) (ab : Bool) :
    MirrorBd.Inv { b with fields := { b.fields with
      a := { b.fields.a with base := baseA }, b := { b.fields.b with base := baseB }
      length := BitVec.ofNat 13 (words - 1), abMode := ab, fifoMode := BitVec.ofNat 2 fifo } } := by
  obtain ⟨hn, hs, -, -, hi⟩ := h
  have hmode : (BitVec.ofNat 2 fifo).toNat = fifo := by rw [BitVec.toNat_ofNat]; omega
  refine ⟨hn, hs, fun he => ?_, fun hne => ?_, hi⟩
  · have := congrArg BitVec.toNat he
    rw [hmode] at this
    exact absurd this (Nat.ne_of_lt hf)
  · have hpos : fifo ≠ 0 := fun h0 => hne (by rw [h0]; rfl)
    have hmod : words % 4 = 0 := by
      rw [fifoMask, if_neg hpos] at ha
      exact (Nat.and_two_pow_sub_one_eq_mod words 2).symm.trans ha
    show ((BitVec.ofNat 13 (words - 1)).toNat + 1) % 4 = 0
    rw [BitVec.toNat_ofNat, Nat.mod_eq_of_lt hw]; omega

/-! ### Every instruction and every step -/

theorem exec_mirrorInv {i : Instr} {s s' : State} (hx : exec i s = .next s') (h : s.MirrorInv) : s'.MirrorInv := by
  by_cases ht : i.touches = none
  case neg =>
    obtain ⟨he, hq⟩ := (exec_effect i s s' hx).host ht
    exact h.same he hq
  cases i with
  | poll t off mask expected timeout => cases hx; exact h.beginPoll
  | lockAcquire t l v timeout => cases hx; exact h.checked fun _ => h.beginPoll
  | lockRelease t l v timeout => cases hx; exact h.checked fun _ => h.beginPoll
  | bdSetLock e n x lockId relEn relVal acqEn acqVal => cases hx; exact h.setter fun _ b hb => hb.modSlot ..
  | bdSet2D e n axis incr wrap offset => cases hx; exact h.setter fun _ b hb => hb.set2D ..
  | bdSetInterleave e n en which count current =>
    cases hx
    refine h.setter fun hc b hb => hb.setIntlv (count := count) ?_ _ _ _
    simpa using hc (count % 4 == 0, .intlvCountNotMult4) (by simp)
  | bdSetAddrLenMode e n baseA baseB lengthBytes dbEn fifoMode =>
    cases hx
    refine h.setter fun hc b hb => ?_
    simp only [List.forall_mem_cons, decide_eq_true_eq, beq_iff_eq] at hc
    obtain ⟨hfifo, -, halign, -, -, hone, hlen, -⟩ := hc
    exact hb.setLength hfifo halign hone hlen ..
  | bdSetNext e n next =>
    cases hx
    exact h.setter fun hc b hb => hb.setNext (hc (isBdOrSentinel next, .badNextBd) List.mem_cons_self)
  | bdSetPacket e n en type id => cases hx; exact h.setter fun _ b hb => hb
  | bdClear e n => cases hx; exact h.setter fun _ _ _ => MirrorBd.cleared_inv
  | bdClearAll e => cases hx; exact h.onEngine (h.clearBds e).same
  | bdCommit e n =>
    cases hx; exact h.onEngine (h.checked fun _ => h.queue _ (commitOps_marksFit.append (.ret _)))
  | chControl e c reset enable => cases hx; exact h.onEngine (h.runSub controlOps_marksFit)
  | chSetStartBd e c bd => cases hx; exact h.onEngine (h.runSub startBdOps_marksFit)
  | chReset e c => cases hx; exact h.onEngine (h.checked fun _ => h.perform resetOps_marksFit)
  | chResetAll e => cases hx; exact h.onEngine (h.perform resetAllOps_marksFit)
  | dmaInitialize e force =>
    cases hx; refine h.onEngine (h.checked fun _ => ?_)
    split
    · exact h.same
    · exact (h.clearBds e).perform initOps_marksFit
  | ssPortId kind dir cls ix => cases hx; exact h.same
  | ssConfigureMaster t cls ix en pktEn cfg => cases hx; exact h.runSub masterOps_marksFit
  | ssConfigureSlave t cls ix en pktEn => cases hx; exact h.runSub slaveOps_marksFit
  | ssConnectCircuit t scls si mcls mi enSlave =>
    cases hx
    refine h.checked fun _ => h.perform (inOrder_marksFit (List.forall_mem_cons.2 ⟨masterOps_marksFit, fun c hc => ?_⟩))
    split at hc
    · cases List.mem_singleton.1 hc; exact slaveOps_marksFit
    · cases hc
  | ssConfigureSlot t cls ix k en id mask msel arb => cases hx; exact h.runSub slotOps_marksFit
  | ssMstrPktConfig drop mask arb => cases hx; exact h.checked fun _ => h.same
  | _ => cases ht

theorem runRaw_mirrorInv {r : Raw} {s s' : State} (hx : runRaw r s = .next s') (h : s.MirrorInv) : s'.MirrorInv := by
  rcases runRaw_next r s s' hx with ⟨i, -, hi⟩ | ⟨o, -, rfl⟩ | ⟨o, -, rfl⟩
  · exact exec_mirrorInv hi h
  · exact h.same
  · exact h.same

theorem afterTry_mirrorInv {t : TileId} {off mask expected more : Nat} {s : State} (h : s.MirrorInv) :
    (afterTry t off mask expected more s).MirrorInv := by
  unfold afterTry
  split
  · exact h
  · split
    · exact h.same
    · split
      · exact h.same
      · exact h.queue [.pollTry ..] (.cons nofun .nil)

/-- An operation whose mark fits, if it is one. -/
theorem runOp_mirrorInv {op : HostOp} {s s' : State} (hx : runOp op s = .next s') (h : s.MirrorInv)
    (ho : ∀ e c x, op = .noteStartBd e c x → IsBdMark x) : s'.MirrorInv := by
  rcases runOp_next op s s' hx with ⟨r, hr⟩ | ⟨f, rfl⟩ | ⟨t, off, m, x, k, s1, -, h1, rfl⟩ | ⟨e, c, b, hop, rfl⟩
    | ⟨e, -, rfl⟩ | ⟨r, -, rfl⟩
  · exact runRaw_mirrorInv hr h
  · exact h.same
  · exact afterTry_mirrorInv (runRaw_mirrorInv h1 h)
  · refine h.setEngine e ⟨fun d => ?_, (h.1 e).2⟩
    rw [getElem_set_fin]
    split
    · exact ho e c b hop
    · exact (h.1 e).1 d
  · exact h.setEngine e (h.1 e)
  · exact h.same

theorem runTurn_mirrorInv {u : Turn} {s s' : State} (hx : runTurn u s = .next s') (h : s.MirrorInv) : s'.MirrorInv := by
  cases u with
  | agent a => exact runRaw_mirrorInv (r := .agent a) hx h
  | host =>
    simp only [runTurn, hostTurn] at hx
    split at hx
    · cases hx; exact h
    · rename_i op q hq
      have hmarks : MarksFit (op :: q) := hq ▸ h.2
      exact runOp_mirrorInv hx (mirrorInv_iff.2 ⟨h.1, hmarks.tail⟩) fun e c x he => hmarks e c x (he ▸ List.mem_cons_self)

/-- Settles O13: a step raises a fault, or is a turn, whose instruction or host operation keeps the invariant. -/
theorem mirrorInvKept : Obligations.MirrorInvKept := by
  intro s s' h hs
  obtain ⟨-, -, ⟨f, -, rfl⟩ | ⟨-, hturn⟩⟩ := step_next s s' hs
  · exact h.same
  · have htaken : s.takeTurn.2.MirrorInv := by rw [takeTurn_state s]; exact h.same
    exact runTurn_mirrorInv hturn htaken

end Sys2Proof.Machine
end

section
/-! PROOF. The machine right after reset (O14): what a tile at power-on holds, and that it meets each invariant. -/

namespace Sys2Proof.Machine

theorem State.powerOn_tile (q : Config.Params) (p : Config.PowerOn) (refs : Vector TileRef 2) (t : TileId) :
    (State.powerOn q p refs).tile t = Tile.powerOn p refs[t] := by
  simp only [State.powerOn, State.tile, Fin.getElem_fin, Vector.getElem_ofFn]

theorem Tile.powerOn_queuesFit (q : Config.Params) (p : Config.PowerOn) (r : TileRef) : (Tile.powerOn p r).QueuesFit q := by
  refine ⟨fun x => ?_, fun m => ?_⟩
  · simp only [Tile.powerOn, Fin.getElem_fin, Vector.getElem_replicate]; exact Nat.zero_le _
  · simp only [Tile.powerOn, Fin.getElem_fin, Vector.getElem_replicate]; exact Nat.zero_le _

theorem Tile.powerOn_walkersFit (q : Config.Params) (p : Config.PowerOn) (r : TileRef) : (Tile.powerOn p r).WalkersFit q := by
  intro c
  simp only [Tile.powerOn, Fin.getElem_fin, Vector.getElem_replicate]
  exact Walker.inv_idle rfl rfl rfl

theorem Tile.powerOn_arbiterInv (q : Config.Params) (p : Config.PowerOn) (r : TileRef) : (Tile.powerOn p r).ArbiterInv q := by
  have hroute : ∀ x : SlaveId, (Tile.powerOn p r).pktRoute[x] = none := fun x => by
    simp only [Tile.powerOn, Fin.getElem_fin, Vector.getElem_replicate]
  have howner : ∀ a : Fin 8, (Tile.powerOn p r).arbOwner[a] = none := fun a => by
    simp only [Tile.powerOn, Fin.getElem_fin, Vector.getElem_replicate]
  simp only [Tile.ArbiterInv, hroute, howner, reduceCtorEq, false_and, exists_false, false_implies, implies_true, and_self]

/-- No engine exists at power-on, so each has the value of its creation (R50; log 13). -/
theorem State.powerOn_mirrorInv (q : Config.Params) (p : Config.PowerOn) (refs : Vector TileRef 2) :
    (State.powerOn q p refs).MirrorInv := by
  refine mirrorInv_iff.2 ⟨fun e => ?_, .nil⟩
  have he : (State.powerOn q p refs).engine e = .created := by
    simp only [State.powerOn, State.engine, Fin.getElem_fin, Vector.getElem_replicate, Option.getD_none]
  rw [he]; exact Eng.created_inv

/-- Settles O14: reset is a power-on state, whose tiles and engines meet every invariant. -/
theorem invariantsAtReset : Obligations.InvariantsAtReset := by
  refine ⟨reset_dm_wf, fun t => ?queues, fun t => ?walkers, fun t => ?arbiters, State.powerOn_mirrorInv .., rfl, rfl, rfl⟩
  case queues => rw [State.reset, State.powerOn_tile]; exact Tile.powerOn_queuesFit _ _ _
  case walkers =>
    have h := Tile.powerOn_walkersFit State.reset.params .reference referenceFabric[t]
    rw [← State.powerOn_tile .reference] at h
    exact h
  case arbiters => rw [State.reset, State.powerOn_tile]; exact Tile.powerOn_arbiterInv _ _ _

end Sys2Proof.Machine
end

section
/-! PROOF. The order of data-memory accesses (O22).  What an operation does to one record of a write comes first, then what
each instruction does to the records and the locks (`OrderEffect`: nothing, one data-memory write, or one lock request), then
what every step keeps of the records. -/

namespace Sys2Proof.Machine

/-! ### One record (R83) -/

/-- A successful request orders its requester after the writes that the lock carries, and nobody else. -/
theorem WriteRec.mem_known_lock {who a : Agent} {l : TileId × LockIx} {r : WriteRec} :
    a ∈ (r.lock who l).known ↔ a ∈ r.known ∨ (a = who ∧ l ∈ r.locks) := by
  obtain ⟨x, hx, -, hknown, -⟩ := mem_noteLock (r := r.lock who l) (ws := [r]) List.mem_cons_self
  cases List.mem_singleton.1 hx
  exact hknown a

/-- A successful request makes its lock carry the writes that the requester is ordered after, and no other lock. -/
theorem WriteRec.mem_locks_lock {who : Agent} {l m : TileId × LockIx} {r : WriteRec} :
    m ∈ (r.lock who l).locks ↔ m ∈ r.locks ∨ (m = l ∧ who ∈ (r.lock who l).known) := by
  obtain ⟨x, hx, -, -, hlocks⟩ := mem_noteLock (r := r.lock who l) (ws := [r]) List.mem_cons_self
  cases List.mem_singleton.1 hx
  exact hlocks m

/-- The requester is ordered after exactly the writes that the lock now carries. -/
theorem WriteRec.known_iff_locks_lock {who : Agent} {l : TileId × LockIx} {r : WriteRec} :
    who ∈ (r.lock who l).known ↔ l ∈ (r.lock who l).locks := by
  rw [WriteRec.mem_locks_lock, WriteRec.mem_known_lock]
  simp only [true_and]
  tauto

/-- A record is still the record of the same write, and has lost no agent and no lock. -/
structure WriteRec.Kept (r r' : WriteRec) : Prop where
  t : r'.t = r.t
  wa : r'.wa = r.wa
  old : r'.old = r.old
  new : r'.new = r.new
  known : r.known ⊆ r'.known
  locks : r.locks ⊆ r'.locks
  overBy : r.overBy ⊆ r'.overBy

theorem WriteRec.Kept.refl (r : WriteRec) : r.Kept r :=
  ⟨rfl, rfl, rfl, rfl, List.Subset.refl _, List.Subset.refl _, List.Subset.refl _⟩

theorem WriteRec.Kept.trans {r r' r'' : WriteRec} (h : r.Kept r') (h' : r'.Kept r'') : r.Kept r'' where
  t := h'.t.trans h.t
  wa := h'.wa.trans h.wa
  old := h'.old.trans h.old
  new := h'.new.trans h.new
  known := List.Subset.trans h.known h'.known
  locks := List.Subset.trans h.locks h'.locks
  overBy := List.Subset.trans h.overBy h'.overBy

theorem WriteRec.kept_lock (who : Agent) (l : TileId × LockIx) (r : WriteRec) : r.Kept (r.lock who l) where
  t := rfl
  wa := rfl
  old := rfl
  new := rfl
  known _ ha := WriteRec.mem_known_lock.2 (.inl ha)
  locks _ hm := WriteRec.mem_locks_lock.2 (.inl hm)
  overBy := List.Subset.refl _

theorem WriteRec.kept_overwrite (who : Agent) (t : TileId) (wa : Nat) (r : WriteRec) : r.Kept (r.overwrite who t wa) where
  t := rfl
  wa := rfl
  old := rfl
  new := rfl
  known := List.Subset.refl _
  locks := List.Subset.refl _
  overBy := by
    unfold WriteRec.overwrite
    split
    · exact List.subset_cons_self _ _
    · exact List.Subset.refl _

/-! ### The list of records -/

theorem getElem?_noteLock {who : Agent} {l : TileId × LockIx} {ws : List WriteRec} {k : Nat} {r : WriteRec}
    (h : ws[k]? = some r) : (noteLock who l ws)[k]? = some (r.lock who l) := by
  rw [noteLock, List.getElem?_map, h]; rfl

theorem getElem?_noteWrite {who : Agent} {t : TileId} {wa : Nat} {old : Option Word} {v : Word} {ws : List WriteRec} {k : Nat}
    {r : WriteRec} (h : ws[k]? = some r) : (noteWrite who t wa old v ws)[k]? = some (r.overwrite who t wa) := by
  have hmap : (ws.map (WriteRec.overwrite who t wa))[k]? = some (r.overwrite who t wa) := by
    rw [List.getElem?_map, h]; rfl
  obtain ⟨hlt, -⟩ := List.getElem?_eq_some_iff.1 hmap
  rw [noteWrite, List.getElem?_append_left hlt, hmap]

/-- Every record keeps its place and what it says. -/
def RecordsKept (ws ws' : List WriteRec) : Prop :=
  ∀ (k : Nat) (r : WriteRec), ws[k]? = some r → ∃ r', ws'[k]? = some r' ∧ r.Kept r'

theorem RecordsKept.refl (ws : List WriteRec) : RecordsKept ws ws := fun _ r h => ⟨r, h, .refl r⟩

theorem RecordsKept.trans {ws ws' ws'' : List WriteRec} (h : RecordsKept ws ws') (h' : RecordsKept ws' ws'') :
    RecordsKept ws ws'' := fun k r hr => by
  obtain ⟨r', hr', hk⟩ := h k r hr
  obtain ⟨r'', hr'', hk'⟩ := h' k r' hr'
  exact ⟨r'', hr'', hk.trans hk'⟩

/-- Every record is kept, and at most one is added. -/
structure RecordsGrow (ws ws' : List WriteRec) : Prop where
  le : ws.length ≤ ws'.length
  le_succ : ws'.length ≤ ws.length + 1
  kept : RecordsKept ws ws'

theorem RecordsGrow.refl (ws : List WriteRec) : RecordsGrow ws ws := ⟨le_rfl, Nat.le_succ _, .refl ws⟩

theorem RecordsGrow.noteLock (who : Agent) (l : TileId × LockIx) (ws : List WriteRec) :
    RecordsGrow ws (noteLock who l ws) := by
  have hlen : (Machine.noteLock who l ws).length = ws.length := List.length_map _
  exact ⟨hlen.ge, hlen.le.trans (Nat.le_succ _), fun _ r h => ⟨_, getElem?_noteLock h, r.kept_lock who l⟩⟩

theorem RecordsGrow.noteWrite (who : Agent) (t : TileId) (wa : Nat) (old : Option Word) (v : Word) (ws : List WriteRec) :
    RecordsGrow ws (noteWrite who t wa old v ws) := by
  have hlen : (Machine.noteWrite who t wa old v ws).length = ws.length + 1 := by
    rw [Machine.noteWrite, List.length_append, List.length_map, List.length_singleton]
  exact ⟨hlen ▸ Nat.le_succ _, hlen.le, fun _ r h => ⟨_, getElem?_noteWrite h, r.kept_overwrite who t wa⟩⟩

/-! ### The effect of an instruction on records and locks -/

/-- The records of writes and the locks of every tile are the same. -/
def SameOrder (s s' : State) : Prop := s'.writes = s.writes ∧ ∀ u, (s'.tile u).lock = (s.tile u).lock

theorem SameOrder.of_tiles {s s' : State} (ht : s'.tiles = s.tiles := by rfl) (hw : s'.writes = s.writes := by rfl) :
    SameOrder s s' := ⟨hw, fun _ => by simp only [State.tile, ht]⟩

/-- A change of one tile that leaves its locks. -/
theorem SameOrder.mod {s : State} {t : TileId} {f : Tile → Tile} (h : (f (s.tile t)).lock = (s.tile t).lock) :
    SameOrder s (s.modTile t f) := ⟨rfl, fun u => by
  by_cases hu : u = t
  · subst hu; rw [State.modTile_tile_same, h]
  · rw [State.modTile_tile_ne _ _ _ _ hu]⟩

theorem SameOrder.drew {s s' : State} (h : SameOrder s s') (n : Nat) : SameOrder s (s'.drew n) := h

theorem SameOrder.raiseNext {s s' : State} (h : SameOrder s s') (f : Fault) : SameOrder s (s'.raiseNext f) := h

theorem SameOrder.of_drew {s s' : State} {n : Nat} (h : SameOrder (s.drew n) s') : SameOrder s s' := h

theorem SameOrder.onKind {s k : State} {x : TileKind} {t : TileId} {off : Nat} (h : SameOrder s k) :
    SameOrder s (onKind x t off s k) := by
  unfold Machine.onKind; split
  · exact h
  · exact .of_tiles

theorem SameOrder.below {s k : State} {x n off : Nat} (h : SameOrder s k) : SameOrder s (below x n off s k) := by
  unfold Machine.below; split
  · exact h
  · exact .of_tiles

theorem SameOrder.onEngine {s k : State} {e : TileId} (h : SameOrder s k) : SameOrder s (onEngine e s k) := by
  unfold Machine.onEngine; split
  · exact h
  · exact .of_tiles

theorem SameOrder.checked {s k : State} {cs : List (Bool × ErrReason)} (h : SameOrder s k) : SameOrder s (checked cs s k) := by
  rcases checked_cases cs s k with ⟨e, -, hc⟩ | ⟨-, hc⟩ <;> rw [hc]
  · exact .of_tiles
  · exact h

theorem SameOrder.runSub {c : SubCommand} {s : State} : SameOrder s (runSub c s) := by
  cases c with
  | error e => exact .of_tiles
  | ok ops => exact .of_tiles

theorem SameOrder.setter {e : TileId} {n : Nat} {cs : List (Bool × ErrReason)} {f : MirrorBd → MirrorBd} {s : State} :
    SameOrder s (setter e n cs f s) := .onEngine (.checked .of_tiles)

theorem SameOrder.lockCommand {a : Bool} {t : TileId} {l : Nat} {v : ValArg} {timeout : Nat} {s : State} :
    SameOrder s (lockCommand a t l v timeout s) := .checked .of_tiles

theorem SameOrder.lockWrite {x : TileKind} {t : TileId} {l : LockIx} {op : Nat} {s : State} :
    SameOrder s (lockWrite x t l op s) := .onKind (.below .of_tiles)

theorem SameOrder.switchStep {t : TileId} {s : State} {k : State → State} (h : ∀ n, SameOrder (s.drew n) (k (s.drew n))) :
    SameOrder s (switchStep t s k) := by
  rcases switchStep_cases t s k with e | e | ⟨f, e, -⟩ <;> rw [e]
  · exact h 0
  · exact h 1
  · exact .of_tiles

/-- A failed request orders nobody and changes no lock (R83, R167). -/
theorem SameOrder.lockRequest_of_fail {s : State} {who : Agent} {t : TileId} {l : LockIx} {q : LockKind}
    (h : s.lockOk t l q = false) : SameOrder (s.lockRequest who t l q) s := by
  rw [lockRequest_fail s who t l q h]; exact .of_tiles

theorem circuitMove_sameOrder (t : TileId) (p : SlaveId) (s : State) : SameOrder s (circuitMove t p s) := by
  unfold circuitMove; split
  · exact .mod (by rw [Tile.pushOut_lock, Tile.popIn_lock])
  · exact .of_tiles

theorem packetStart_sameOrder (t : TileId) (p : SlaveId) (s : State) : SameOrder s (packetStart t p s) := by
  simp only [packetStart]
  split
  · exact .of_tiles
  · split
    · simp only [startPacket]
      split
      · exact .of_tiles
      · exact .of_tiles
      · split
        · exact .of_tiles
        · split
          · exact .of_tiles
          · exact SameOrder.drew (.mod rfl) _
    · exact .of_tiles

theorem packetForward_sameOrder (t : TileId) (p : SlaveId) (s : State) : SameOrder s (packetForward t p s) := by
  simp only [packetForward]
  split
  · split
    · exact .mod (Tile.forward_lock ..)
    · exact .of_tiles
  · exact .of_tiles

theorem fetchBd_sameOrder (t : TileId) (c : ChIx) (s : State) : SameOrder s (fetchBd t c s) := by
  simp only [fetchBd]
  split
  · exact .of_tiles
  · split_ifs
    · exact .of_tiles
    · exact .of_tiles
    · exact .of_tiles
    · exact .mod rfl
    · exact .mod rfl

theorem sendHeader_sameOrder (t : TileId) (c : ChIx) (b : HwBd) (s : State) : SameOrder s (sendHeader t c b s) := by
  simp only [sendHeader]; split
  · exact .mod rfl
  · exact .of_tiles

theorem sendWord_sameOrder (t : TileId) (c : ChIx) (b : HwBd) (s : State) : SameOrder s (sendWord t c b s) := by
  simp only [sendWord]; split_ifs
  · exact .of_tiles
  · exact .of_drew (.mod rfl)
  · exact .of_tiles

/-- What an instruction does to the records of writes and to the locks: nothing, what one data-memory write does, or what
the lock request it makes does. -/
inductive OrderEffect (i : Instr) (s s' : State) : Prop
  | quiet (hi : lockRequestOf s i = none) (h : SameOrder s s')
  | store (hi : lockRequestOf s i = none) (who : Agent) (t : TileId) (wa : Nat) (v : Word)
      (h : SameOrder (s.dmWrite who t wa v) s')
  | request (t : TileId) (l : LockIx) (q : LockKind) (hi : lockRequestOf s i = some (t, l, q))
      (h : SameOrder (s.lockRequest (requester i) t l q) s')

/-- A host read at a lock-request offset makes the request where the row is mapped (R79, R152). -/
theorem OrderEffect.lockRead {i : Instr} {s : State} {k : TileKind} {t : TileId} {l : LockIx} {q : LockKind}
    (hi : lockRequestOf s i = hostRequest s k t l q) (hr : requester i = .host) : OrderEffect i s (lockRead k t l q s) := by
  unfold Machine.lockRead
  by_cases hk : s.kind t = k
  · rw [onKind_pos hk]
    refine .request t l q (by rw [hi, hostRequest, if_pos hk]) ?_
    rw [hr]; exact .of_tiles
  · rw [onKind_neg hk]
    exact .quiet (by rw [hi, hostRequest, if_neg hk]) .of_tiles

/-- A data-memory transaction on the word of a tile that has it is a write, and else an unmapped access (R79, R89). -/
theorem OrderEffect.dmWr (t : TileId) (wa : Nat) (v : Word) (s : State) :
    OrderEffect (.dmWr t wa v) s (onWord t wa s (s.dmWrite .host t wa v)) := by
  unfold onWord onKind below
  split_ifs
  · exact .store rfl .host t wa v .of_tiles
  · exact .quiet rfl .of_tiles
  · exact .quiet rfl .of_tiles

/-! ### The requests of a walker (R263, R265) -/

section

variable {s : State} {t : TileId} {c : ChIx} {p : Phase} {asks : SlotFields → Bool} {q : SlotFields → LockKind} {b : HwBd}

theorem walkRequest_of_asks (hw : s.walkIn t c p = true) (hb : (s.walker t c).snap = some b)
    (ha : asks (b.fields.slot (s.walker t c).buf) = true) :
    walkRequest s t c p asks q
      = some (t, (b.fields.slot (s.walker t c).buf).lock, q (b.fields.slot (s.walker t c).buf)) := by
  simp only [walkRequest, hb, hw, ha, Bool.and_self, if_true]

theorem walkRequest_of_not_asks (hb : (s.walker t c).snap = some b)
    (ha : ¬ asks (b.fields.slot (s.walker t c).buf) = true) : walkRequest s t c p asks q = none := by
  simp only [walkRequest, hb, ha, Bool.and_false, Bool.false_eq_true, if_false]

theorem walkRequest_of_no_step (h : ∀ b, s.walkIn t c p = true → (s.walker t c).snap = some b → False) :
    walkRequest s t c p asks q = none := by
  unfold walkRequest
  split
  · rename_i b hb
    have hw : ¬ s.walkIn t c p = true := fun hw => h b hw hb
    simp only [hw, Bool.false_and, Bool.false_eq_true, if_false]
  · rfl

theorem OrderEffect.acquireBd (hw : s.walkIn t c .acquire = true) (hb : (s.walker t c).snap = some b) :
    OrderEffect (.walkAcquire t c) s (acquireBd t c b s) := by
  simp only [Machine.acquireBd]
  split_ifs with hn hok
  · exact .quiet (walkRequest_of_not_asks hb (by simpa using hn)) (.mod rfl)
  · exact .request _ _ _ (walkRequest_of_asks hw hb (by simpa using hn)) (.mod rfl)
  · exact .request _ _ _ (walkRequest_of_asks hw hb (by simpa using hn))
      (.lockRequest_of_fail (Bool.not_eq_true _ ▸ hok))

theorem OrderEffect.releaseBd (hw : s.walkIn t c .release = true) (hb : (s.walker t c).snap = some b) :
    OrderEffect (.walkRelease t c) s (releaseBd t c b s) := by
  simp only [Machine.releaseBd]
  split_ifs with hn hok
  · exact .quiet (walkRequest_of_not_asks hb (by simpa using hn)) (.mod rfl)
  · exact .request _ _ _ (walkRequest_of_asks hw hb (by simpa using hn)) (.mod rfl)
  · exact .request _ _ _ (walkRequest_of_asks hw hb (by simpa using hn)) .of_tiles

theorem OrderEffect.storeWord : OrderEffect (.walkTransfer t c) s (storeWord t c b s) := by
  simp only [Machine.storeWord]
  split
  · exact .quiet rfl .of_tiles
  · split
    · exact .quiet rfl .of_tiles
    · exact .store rfl _ _ _ _ (.mod rfl)

end

theorem OrderEffect.envAct (t : TileId) (act : EnvAction) (s : State) : OrderEffect (.envStep t act) s (envAct t s act) := by
  cases act with
  | push p w =>
    refine .quiet rfl ?_
    simp only [Machine.envAct]; split
    · exact .mod rfl
    · exact .of_tiles
  | pop m =>
    refine .quiet rfl ?_
    simp only [Machine.envAct]; split
    · exact .of_tiles
    · exact .mod rfl
  | lock who l q => exact .request t l q rfl (.mod rfl)
  | read who wa =>
    refine .quiet rfl ?_
    simp only [Machine.envAct]
    exact .of_drew (.mod rfl)
  | write who wa v => exact .store rfl (envAgent t who) t wa v .of_tiles

/-- The effect of every instruction on the records and the locks. -/
theorem exec_orderEffect (i : Instr) (s s' : State) (h : exec i s = .next s') : OrderEffect i s s' := by
  cases i with
  | dmWr t wa v => cases h; exact .dmWr t wa v s
  | dmRd t wa => cases h; exact .quiet rfl (.onKind (.below .of_tiles))
  | bdWr t n k v =>
    cases h
    have hw : SameOrder s (s.modTile t fun T => T.writeBd n k v) := .mod rfl
    refine .quiet rfl (.onKind ?_); split
    · exact hw.raiseNext _
    · exact hw
  | bdRd t n k => cases h; refine .quiet rfl (.onKind ?_); split <;> exact .of_tiles
  | chCtrlWr t c v => cases h; exact .quiet rfl (.onKind (.mod (Tile.writeCtrl_lock ..)))
  | chCtrlRd t c => cases h; exact .quiet rfl (.onKind .of_tiles)
  | chStartBdWr t c v =>
    cases h; refine .quiet rfl (.onKind ?_); split
    · exact .of_tiles
    · exact .mod rfl
  | chStartBdRd t c => cases h; exact .quiet rfl (.onKind .of_tiles)
  | chStatusRd t ix => cases h; exact .quiet rfl (.onKind .of_tiles)
  | chStatusWr t ix v => cases h; exact .quiet rfl (.onKind .of_tiles)
  | lockAcqNvRd t l => cases h; exact .lockRead rfl rfl
  | lockAcqV0Rd t l => cases h; exact .lockRead rfl rfl
  | lockAcqV1Rd t l => cases h; exact .lockRead rfl rfl
  | lockRelNvRd t l => cases h; exact .lockRead rfl rfl
  | lockRelV0Rd t l => cases h; exact .lockRead rfl rfl
  | lockRelV1Rd t l => cases h; exact .lockRead rfl rfl
  | lockWr t l op v => cases h; exact .quiet rfl .lockWrite
  | lockAcqNvRdBt t l => cases h; exact .lockRead rfl rfl
  | lockAcqV0RdBt t l => cases h; exact .lockRead rfl rfl
  | lockAcqV1RdBt t l => cases h; exact .lockRead rfl rfl
  | lockRelNvRdBt t l => cases h; exact .lockRead rfl rfl
  | lockRelV0RdBt t l => cases h; exact .lockRead rfl rfl
  | lockRelV1RdBt t l => cases h; exact .lockRead rfl rfl
  | lockWrBt t l op v => cases h; exact .quiet rfl .lockWrite
  | mcfgWr t m v => cases h; exact .quiet rfl (.below (.mod rfl))
  | mcfgRd t m => cases h; exact .quiet rfl (.below .of_tiles)
  | scfgWr t p v => cases h; exact .quiet rfl (.below (.mod rfl))
  | scfgRd t p => cases h; exact .quiet rfl (.below .of_tiles)
  | slotWr t p k v => cases h; exact .quiet rfl (.below (.mod rfl))
  | slotRd t p k => cases h; exact .quiet rfl (.below .of_tiles)
  | walkStart t c =>
    cases h; refine .quiet rfl ?_; split
    · exact .mod rfl
    · exact .of_tiles
  | walkAbandon t c =>
    cases h; refine .quiet rfl ?_; split
    · exact .mod rfl
    · exact .of_tiles
  | walkFetch t c =>
    cases h; refine .quiet rfl ?_; split
    · exact fetchBd_sameOrder t c s
    · exact .of_tiles
  | walkAcquire t c =>
    cases h; split
    · exact .acquireBd ‹_› ‹_›
    · exact .quiet (walkRequest_of_no_step ‹_›) .of_tiles
  | walkHeader t c =>
    cases h; refine .quiet rfl ?_; split
    · exact sendHeader_sameOrder ..
    · exact .of_tiles
  | walkTransfer t c =>
    cases h; split
    · split
      · exact .quiet rfl (sendWord_sameOrder ..)
      · exact .storeWord
    · exact .quiet rfl .of_tiles
  | walkRelease t c =>
    cases h; split
    · exact .releaseBd ‹_› ‹_›
    · exact .quiet (walkRequest_of_no_step ‹_›) .of_tiles
  | walkAdvance t c =>
    cases h; refine .quiet rfl ?_; split
    · exact .mod rfl
    · exact .of_tiles
  | swCircuit t p => cases h; exact .quiet rfl (.switchStep fun _ => circuitMove_sameOrder ..)
  | swPktStart t p => cases h; exact .quiet rfl (.switchStep fun _ => packetStart_sameOrder ..)
  | swPktForward t p => cases h; exact .quiet rfl (.switchStep fun _ => packetForward_sameOrder ..)
  | envStep t act =>
    cases h; split
    · exact .envAct t act s
    · rename_i hwf
      refine .quiet ?_ .of_tiles
      cases act with
      | lock who l q => exact absurd rfl hwf
      | _ => rfl
  | poll t off mask expected timeout => cases h; exact .quiet rfl .of_tiles
  | lockAcquire t l v timeout => cases h; exact .quiet rfl .lockCommand
  | lockRelease t l v timeout => cases h; exact .quiet rfl .lockCommand
  | bdSetLock e n x lockId relEn relVal acqEn acqVal => cases h; exact .quiet rfl .setter
  | bdSet2D e n axis incr wrap offset => cases h; exact .quiet rfl .setter
  | bdSetInterleave e n en which count current => cases h; exact .quiet rfl .setter
  | bdSetAddrLenMode e n baseA baseB lengthBytes dbEn fifoMode => cases h; exact .quiet rfl .setter
  | bdSetNext e n next => cases h; exact .quiet rfl .setter
  | bdSetPacket e n en type id => cases h; exact .quiet rfl .setter
  | bdClear e n => cases h; exact .quiet rfl .setter
  | bdClearAll e => cases h; exact .quiet rfl (.onEngine .of_tiles)
  | bdCommit e n => cases h; exact .quiet rfl (.onEngine (.checked .of_tiles))
  | chControl e c reset enable => cases h; exact .quiet rfl (.onEngine .runSub)
  | chSetStartBd e c bd => cases h; exact .quiet rfl (.onEngine .runSub)
  | chReset e c => cases h; exact .quiet rfl (.onEngine (.checked .of_tiles))
  | chResetAll e => cases h; exact .quiet rfl (.onEngine .of_tiles)
  | dmaInitialize e force =>
    cases h; refine .quiet rfl (.onEngine (.checked ?_)); split <;> exact .of_tiles
  | ssPortId kind dir cls ix => cases h; exact .quiet rfl .of_tiles
  | ssConfigureMaster t cls ix en pktEn cfg => cases h; exact .quiet rfl .runSub
  | ssConfigureSlave t cls ix en pktEn => cases h; exact .quiet rfl .runSub
  | ssConnectCircuit t scls si mcls mi enSlave => cases h; exact .quiet rfl (.checked .of_tiles)
  | ssConfigureSlot t cls ix k en id mask msel arb => cases h; exact .quiet rfl .runSub
  | ssMstrPktConfig drop mask arb => cases h; exact .quiet rfl (.checked .of_tiles)

/-! ### From instructions to steps -/

theorem OrderEffect.recordsGrow {i : Instr} {s s' : State} (e : OrderEffect i s s') : RecordsGrow s.writes s'.writes := by
  cases e with
  | quiet hi h => rw [h.1]; exact .refl _
  | store hi who t wa v h => rw [h.1, State.dmWrite_writes]; exact .noteWrite ..
  | request t l q hi h =>
    rw [h.1, State.lockRequest_writes]
    split
    · exact .noteLock ..
    · exact .refl _

theorem runRaw_recordsGrow {r : Raw} {s s' : State} (h : runRaw r s = .next s') : RecordsGrow s.writes s'.writes := by
  rcases runRaw_next r s s' h with ⟨i, -, hi⟩ | ⟨o, -, rfl⟩ | ⟨o, -, rfl⟩
  · exact (exec_orderEffect i s s' hi).recordsGrow
  · exact .refl _
  · exact .refl _

/-- What follows an attempt of a poll touches no record. -/
theorem afterTry_writes (t : TileId) (off mask expected more : Nat) (s : State) :
    (afterTry t off mask expected more s).writes = s.writes := by
  unfold afterTry
  split
  · rfl
  · split
    · rfl
    · split <;> rfl

theorem runOp_recordsGrow {op : HostOp} {s s' : State} (h : runOp op s = .next s') : RecordsGrow s.writes s'.writes := by
  rcases runOp_next op s s' h with ⟨r, hr⟩ | ⟨f, rfl⟩ | ⟨t, off, m, x, k, s1, -, h1, rfl⟩ | ⟨e, c, b, -, rfl⟩
    | ⟨e, -, rfl⟩ | ⟨r, -, rfl⟩
  · exact runRaw_recordsGrow hr
  · exact .refl _
  · rw [afterTry_writes]; exact runRaw_recordsGrow h1
  · exact .refl _
  · exact .refl _
  · exact .refl _

theorem runTurn_recordsGrow {u : Turn} {s s' : State} (h : runTurn u s = .next s') : RecordsGrow s.writes s'.writes := by
  cases u with
  | agent a => exact runRaw_recordsGrow (r := .agent a) h
  | host =>
    simp only [runTurn, hostTurn] at h
    split at h
    · cases h; exact .refl _
    · rename_i op q _
      exact runOp_recordsGrow (s := s.setQueue q) h

/-- A step keeps every record and adds at most one. -/
theorem step_recordsGrow {s s' : State} (h : step s = .next s') : RecordsGrow s.writes s'.writes := by
  obtain ⟨-, -, ⟨f, -, rfl⟩ | ⟨-, hturn⟩⟩ := step_next s s' h
  · exact .refl _
  · have hgrow := runTurn_recordsGrow hturn
    rw [takeTurn_state s] at hgrow
    exact hgrow

/-- So do any number of steps, but for how many they add. -/
theorem stepRun_recordsKept {n : Nat} {s s' : State} (h : stepRun n s = .next s') : RecordsKept s.writes s'.writes := by
  induction n generalizing s with
  | zero => cases h; exact .refl _
  | succ n ih =>
    simp only [stepRun] at h
    split at h
    · rename_i s1 hs
      exact (step_recordsGrow hs).kept.trans (ih h)
    · cases h
    · cases h

/-! ### The statement -/

/-- A lock that differs after a request is the requested one, and the request succeeded. -/
theorem lockRequest_changes {s : State} {who : Agent} {t u : TileId} {l m : LockIx} {q : LockKind}
    (h : ((s.lockRequest who t l q).tile u).lock[m] ≠ (s.tile u).lock[m]) : u = t ∧ m = l ∧ s.lockOk t l q = true := by
  have hok : s.lockOk t l q = true := by
    by_contra hno
    have hsame : SameOrder (s.lockRequest who t l q) s := .lockRequest_of_fail (Bool.not_eq_true _ ▸ hno)
    exact h (by rw [hsame.2 u])
  by_cases hu : u = t
  · subst hu
    rw [State.lockRequest_tile_same] at h
    exact ⟨rfl, (eq_of_getElem_set_ne h).symm, hok⟩
  · exact absurd (by rw [State.lockRequest_tile_ne _ _ _ _ _ _ hu]) h

/-- An instruction that changes a lock orders the agent that requested it (R83). -/
theorem OrderEffect.writes_of_lock_ne {i : Instr} {s s' : State} {t : TileId} {l : LockIx} (e : OrderEffect i s s')
    (hne : (s'.tile t).lock[l] ≠ (s.tile t).lock[l]) : s'.writes = noteLock (requester i) (t, l) s.writes := by
  cases e with
  | quiet hi h => exact absurd (by rw [h.2 t]) hne
  | store hi who u wa v h =>
    refine absurd ?_ hne
    rw [h.2 t]
    by_cases hu : t = u
    · subst hu; rw [State.dmWrite_tile_same]
    · rw [State.dmWrite_tile_ne _ _ _ _ _ _ hu]
  | request u m q hi h =>
    rw [h.2 t] at hne
    obtain ⟨rfl, rfl, hok⟩ := lockRequest_changes hne
    rw [h.1, State.lockRequest_writes, if_pos hok]

/-- Two successful requests of one lock, any steps between them: the second requester is ordered after every write that the
first one was ordered after (R83). -/
theorem lock_handoff {ws ws' : List WriteRec} {a b : Agent} {l : TileId × LockIx}
    (hkept : RecordsKept (noteLock a l ws) ws') {k : Nat} {r : WriteRec} (hr : (noteLock a l ws)[k]? = some r)
    (ha : a ∈ r.known) : ∃ r', (noteLock b l ws')[k]? = some r' ∧ r.Kept r' ∧ b ∈ r'.known := by
  obtain ⟨x, -, rfl⟩ := List.mem_map.1 (List.mem_of_getElem? hr)
  have hcarried : l ∈ (x.lock a l).locks := WriteRec.known_iff_locks_lock.1 ha
  obtain ⟨y, hy, hxy⟩ := hkept k _ hr
  exact ⟨y.lock b l, getElem?_noteLock hy, hxy.trans (y.kept_lock b l),
    WriteRec.mem_known_lock.2 (.inr ⟨rfl, hxy.locks hcarried⟩)⟩

/-- Settles O22: the clauses on instructions by `exec_orderEffect`, those on steps by `step_recordsGrow`, the hand-off by
`lock_handoff`. -/
theorem locksOrderData : Obligations.LocksOrderData := by
  refine ⟨fun who l ws r hr => ?carried, fun i s s' t l hx hne => (exec_orderEffect i s s' hx).writes_of_lock_ne hne,
    fun i s s' hx => ?request, fun s s1 s2 s3 n a b t l q q' hok h1 hrun hok' h3 k r hr ha => ?handoff,
    fun s s' hs => ?step, fun s who t wa => racingWords_nil,
    fun s who a t wa v hne => ⟨racingWords_noteWrite_self .., racingWords_noteWrite_other hne ..⟩⟩
  case carried =>
    obtain ⟨x, -, rfl⟩ := List.mem_map.1 hr
    exact WriteRec.known_iff_locks_lock
  case request =>
    cases exec_orderEffect i s s' hx with
    | quiet hi h => rw [hi]; exact fun k r hr => ⟨r, by rw [h.1, hr], rfl, rfl⟩
    | store hi who t wa v h =>
      rw [hi]
      exact fun k r hr => ⟨r.overwrite who t wa, by rw [h.1, State.dmWrite_writes, getElem?_noteWrite hr], rfl, rfl⟩
    | request t l q hi h => rw [hi]; exact h.1
  case handoff =>
    subst h1 h3
    have hkept := stepRun_recordsKept hrun
    rw [State.lockRequest_writes, if_pos hok] at hr hkept
    rw [State.lockRequest_writes, if_pos hok']
    obtain ⟨r', hr', hk, hb⟩ := lock_handoff hkept hr ha
    exact ⟨r', hr', hk.t, hk.wa, hk.old, hk.new, hb⟩
  case step =>
    obtain ⟨hle, hle', hkept⟩ := step_recordsGrow hs
    refine ⟨hle, hle', fun k r hr => ?_⟩
    obtain ⟨r', hr', hk⟩ := hkept k r hr
    exact ⟨r', hr', hk.t, hk.wa, hk.old, hk.new, hk.known, hk.locks, hk.overBy⟩

end Sys2Proof.Machine
end

section
/-! PROOF. The host's accesses to data memory (O20, O21): DM_WR and DM_RD of a word the tile has, by the rules of
`State.dmWrite` and `State.dmValue`. -/

namespace Sys2Proof.Machine

/-- Byte `b` of a word just written is bits `8b+7` to `8b` of it (R70). -/
theorem readByte_writeWord_at (m : Memory) (wa : Nat) (v : Word) {b : Nat} (hb : b < 4) :
    readByte (writeWord m wa v) (4 * wa + b) = some (v.extractLsb' (8 * b) 8) := by
  rw [readByte_writeWord]
  simp only [byteAddr]
  interval_cases b <;> simp

/-- What a data-memory write does to its tile and leaves of every other byte (R73). -/
theorem dmWrite_facts (s : State) (who : Agent) (t : TileId) (wa : Nat) (v : Word) :
    let s' := s.dmWrite who t wa v
    readWord (s'.tile t).dm wa = some v
      ∧ (∀ b, b < 4 → readByte (s'.tile t).dm (4 * wa + b) = some (v.extractLsb' (8 * b) 8))
      ∧ SameMemoryBut t wa s s' ∧ s'.tile t = { s.tile t with dm := (s'.tile t).dm } := by
  intro s'
  have htile : s'.tile t = { s.tile t with dm := writeWord (s.tile t).dm wa v } := State.dmWrite_tile_same ..
  refine ⟨?_, fun b hb => ?_, ?_, ?_⟩
  · rw [htile]; exact readWord_writeWord_same ..
  · rw [htile]; exact readByte_writeWord_at _ wa v hb
  · exact SameMemoryBut.mod (f := fun T => { T with dm := writeWord T.dm wa v }) fun _ => rfl
  · rw [htile]

/-- A write orders no other agent: a read of the word by any of them races with it (R83). -/
theorem mem_racing_dmWrite {who a : Agent} (ha : a ≠ who) (s : State) (t : TileId) (wa : Nat) (v : Word) :
    some v ∈ (s.dmWrite who t wa v).racing a t wa := by
  rw [State.racing, State.dmWrite_writes, racingWords_noteWrite_other ha]
  exact List.mem_append_right _ (List.mem_cons_of_mem _ List.mem_cons_self)

/-- A transaction at a word of data memory that the tile has is performed (R89, R90). -/
theorem onWord_pos {s r : State} {t : TileId} {wa : Nat} (hk : s.kind t = .ct) (hw : wa < s.params.dmWords) :
    onWord t wa s r = r := by rw [onWord, onKind_pos hk, below_pos hw]

theorem exec_dmWr {s : State} {t : TileId} {wa : Nat} (hk : s.kind t = .ct) (hw : wa < s.params.dmWords) (v : Word) :
    exec (.dmWr t wa v) s = .next (s.dmWrite .host t wa v) := congrArg Host.Outcome.next (onWord_pos hk hw)

theorem exec_dmRd {s : State} {t : TileId} {wa : Nat} (hk : s.kind t = .ct) (hw : wa < s.params.dmWords) :
    exec (.dmRd t wa) s = .next ((s.dmDrew .host t wa).hostReads (s.dmValue .host t wa)) :=
  congrArg Host.Outcome.next (onWord_pos hk hw)

/-- A word of data memory stands at its word address, which the reference layout starts at 0 (R89, R103). -/
theorem dmBase_of_reference {L : Config.Layout} (h : L = .reference .ct) : L.dmBase = 0x00000 := by rw [h]; rfl

/-- Settles O20: DM_WR is the data-memory write of the host. -/
theorem dataMemoryWrite : Obligations.DataMemoryWrite := by
  intro s t wa v hk hw L
  obtain ⟨hword, hbytes, hothers, htile⟩ := dmWrite_facts s .host t wa v
  exact ⟨rfl, dmBase_of_reference, _, exec_dmWr hk hw v, hword, hbytes, hothers, .dmWrite .., htile,
    fun a ha => mem_racing_dmWrite ha s t wa v⟩

/-- Settles O21: DM_RD returns the word that `State.dmValue` gives the host. -/
theorem dataMemoryRead : Obligations.DataMemoryRead := by
  intro s t wa hk hw L
  refine ⟨rfl, dmBase_of_reference, ⟨_, exec_dmRd hk hw, ⟨rfl, fun _ _ => rfl⟩, fun hrace => ?noRace,
    s.dmValue_mem .host t wa⟩, fun v => ?readBack⟩
  case noRace =>
    have hval := State.dmValue_of_no_race hrace
    exact ⟨fun v hv => by rw [hv] at hval; exact hval, fun hn => by rw [hn] at hval; exact hval⟩
  case readBack =>
    have hk' : (s.dmWrite .host t wa v).kind t = .ct := by rw [State.dmWrite_kind, hk]
    exact ⟨_, _, exec_dmWr hk hw v, exec_dmRd hk' hw, (s.dmValue_dmWrite .host t wa v).1⟩

end Sys2Proof.Machine
end

section
/-! PROOF. The register reads (O26): a mapped read is a host read of the stored word, whose reserved bits are as R140 says. -/

namespace Sys2Proof.Machine

/-- The field bits of the registers in `L_REF` (R127, R128, R130, R131, R132). -/
theorem reference_masks (k : TileKind) :
    ctrlMask (.reference k) = 0x00000003 ∧ startBdMask (.reference k) = 0x0000000F ∧ mcfgMask (.reference k) = 0xC00000FF
      ∧ scfgMask (.reference k) = 0xC0000000 ∧ slotRegMask (.reference k) = 0x1F1F0137 := by
  cases k <;> decide

/-- A transaction on a tile of its row's kind does what it does there. -/
theorem exec_of_kind {i : Instr} {s r : State} {k : TileKind} {t : TileId} {off : Nat} (hk : s.kind t = k)
    (h : exec i s = .next (onKind k t off s r)) : exec i s = .next r := by rw [h, onKind_pos hk]

/-- A transaction at an index the tile has does what it does there. -/
theorem exec_of_below {i : Instr} {s r : State} {x n off : Nat} (hx : x < n)
    (h : exec i s = .next (below x n off s r)) : exec i s = .next r := by rw [h, below_pos hx]

/-- A read of a register changes only the word returned and the draws; the word is the stored one, but for the reserved
bits last written 1 (R140). -/
theorem exec_readsBack {i : Instr} {s : State} {mask w : Word} (h : exec i s = .next (s.hostReadsReg mask w)) :
    ∃ s', exec i s = .next s' ∧ OnlyReadData s s' ∧ ReadsBack mask w s'.host.readData :=
  ⟨_, h, ⟨rfl, fun _ _ => rfl⟩, readsBack_readBack mask w s.draws⟩

/-- Settles O26, register by register from `exec_readsBack`. -/
theorem registerReads : Obligations.RegisterReads := by
  intro s t L
  refine ⟨fun hL => hL ▸ reference_masks _, fun hk => ⟨fun c => ?ctrl, fun c => ?startBd, fun i => ?status⟩,
    fun m hm => ?mcfg, fun p hp => ⟨?scfg, fun k => ?slot⟩⟩
  case ctrl => exact exec_readsBack (exec_of_kind hk rfl)
  case startBd => exact exec_readsBack (exec_of_kind hk rfl)
  case status => exact ⟨_, exec_of_kind hk rfl, ⟨rfl, fun _ _ => rfl⟩, rfl⟩
  case mcfg => exact exec_readsBack (exec_of_below hm rfl)
  case scfg => exact exec_readsBack (exec_of_below hp rfl)
  case slot => exact exec_readsBack (exec_of_below hp rfl)

end Sys2Proof.Machine
end

section
/-! PROOF. Transactions and commands on a tile that lacks what they name (O31): the kind check, the index check and the engine
check of an instruction each answer one record and nothing else. -/

namespace Sys2Proof.Machine

/-! ### What a failed check answers -/

/-- A transaction on a tile of another kind than its row's is unmapped (R141). -/
theorem exec_of_kind_ne {i : Instr} {s r : State} {k : TileKind} {t : TileId} {off : Nat} (hk : s.kind t ≠ k)
    (h : exec i s = .next (onKind k t off s r)) : exec i s = .next (s.raise (.unmapped off)) := by rw [h, onKind_neg hk]

/-- A transaction at an index beyond the tile's is unmapped (R79). -/
theorem exec_of_not_below {i : Instr} {s r : State} {x n off : Nat} (hx : ¬ x < n)
    (h : exec i s = .next (below x n off s r)) : exec i s = .next (s.raise (.unmapped off)) := by rw [h, below_neg hx]

/-- A command on an engine of a tile that has no DMA is refused (R193). -/
theorem exec_of_no_engine {i : Instr} {s r : State} {e : TileId} (hk : s.kind e ≠ .ct)
    (h : exec i s = .next (onEngine e s r)) : exec i s = .next (s.refuse .btDma) := by rw [h, onEngine_neg hk]

/-- A data-memory transaction at or beyond `DM_WORDS` is unmapped (R79). -/
theorem onWord_beyond {s r : State} {t : TileId} {wa : Nat} (hk : s.kind t = .ct) (hw : s.params.dmWords ≤ wa) :
    onWord t wa s r = s.raise (.unmapped (dmOff (s.layout t) wa)) := by
  rw [onWord, onKind_pos hk, below_neg (Nat.not_lt.2 hw)]

/-- A write beyond the region of its lock is unmapped on a tile of either kind (R79, R161). -/
theorem lockWrite_beyond {s : State} {k : TileKind} {t : TileId} {l : LockIx} {op : Nat} (h : (s.layout t).lockStride ≤ op) :
    lockWrite k t l op s = s.raise (.unmapped (lockRegionOff (s.layout t) l op)) := by
  simp only [lockWrite, below_neg (Nat.not_lt.2 h)]
  unfold onKind; split <;> rfl

/-- What holds of two instructions holds of every instruction of their list. -/
theorem forall_mem_pair {P : Instr → Prop} {i j : Instr} (hi : P i) (hj : P j) : ∀ x ∈ [i, j], P x :=
  List.forall_mem_cons.2 ⟨hi, List.forall_mem_singleton.2 hj⟩

/-! ### The statement -/

/-- Every command on an engine makes the engine check first. -/
theorem engine_commands_refused {s : State} {t : TileId} (hk : s.kind t ≠ .ct) :
    (∀ i ∈ ([.chResetAll t, .bdClearAll t] : List Instr), exec i s = .next (s.refuse .btDma))
    ∧ (∀ n, ∀ i ∈ ([.bdClear t n, .bdCommit t n, .chReset t n, .dmaInitialize t n] : List Instr),
        exec i s = .next (s.refuse .btDma))
    ∧ ∀ n a b c d e x y z ax, ∀ i ∈ ([.bdSetLock t n x a b y c z, .bdSet2D t n ax a b c, .bdSetInterleave t n a x b c,
          .bdSetAddrLenMode t n a b c d e, .bdSetNext t n a, .bdSetPacket t n a b c, .chControl t n a b,
          .chSetStartBd t n a] : List Instr), exec i s = .next (s.refuse .btDma) := by
  refine ⟨fun i hi => ?_, fun n i hi => ?_, fun n a b c d e x y z ax i hi => ?_⟩ <;>
    fin_cases hi <;> exact exec_of_no_engine hk rfl

/-- Settles O31: each instruction's first check fails. -/
theorem foreignTransactionsFault : Obligations.ForeignTransactionsFault := by
  intro s t L unmapped
  refine ⟨fun hbt => ?boundary, fun hct => ?compute, fun l op v h => ?region, fun m v h => ?master,
    fun p k v h => ⟨?slave, ?slot⟩⟩
  case boundary =>
    have hk : s.kind t ≠ .ct := by rw [hbt]; nofun
    have foreign {i : Instr} {r : State} {off : Nat} (h : exec i s = .next (onKind .ct t off s r)) :
        exec i s = .next (unmapped off) := exec_of_kind_ne hk h
    obtain ⟨hnone, hone, hmany⟩ := engine_commands_refused hk
    exact ⟨hnone, hone, hmany,
      fun wa v => forall_mem_pair (foreign rfl) (foreign rfl),
      fun n k v => forall_mem_pair (foreign rfl) (foreign rfl),
      fun c v => forall_mem_pair (foreign rfl) (foreign rfl),
      fun c v => forall_mem_pair (foreign rfl) (foreign rfl),
      fun j v => forall_mem_pair (foreign rfl) (foreign rfl),
      fun l => ⟨foreign rfl, foreign rfl, foreign rfl, foreign rfl, foreign rfl, foreign rfl⟩,
      fun l op v => foreign rfl⟩
  case compute =>
    have hk : s.kind t ≠ .bt := by rw [hct]; nofun
    have foreign {i : Instr} {r : State} {off : Nat} (h : exec i s = .next (onKind .bt t off s r)) :
        exec i s = .next (unmapped off) := exec_of_kind_ne hk h
    exact ⟨fun l => ⟨foreign rfl, foreign rfl, foreign rfl, foreign rfl, foreign rfl, foreign rfl⟩,
      fun l op v => foreign rfl,
      fun wa v hw => forall_mem_pair (congrArg Host.Outcome.next (onWord_beyond hct hw))
        (congrArg Host.Outcome.next (onWord_beyond hct hw))⟩
  case region =>
    exact forall_mem_pair (congrArg Host.Outcome.next (lockWrite_beyond h)) (congrArg Host.Outcome.next (lockWrite_beyond h))
  case master => exact forall_mem_pair (exec_of_not_below h rfl) (exec_of_not_below h rfl)
  case slave => exact forall_mem_pair (exec_of_not_below h rfl) (exec_of_not_below h rfl)
  case slot => exact forall_mem_pair (exec_of_not_below h rfl) (exec_of_not_below h rfl)

end Sys2Proof.Machine
end

section
/-! PROOF. The faults of a host access before it is performed (O6).  An access that decodes is the encoding of a well-formed
instruction, so one that encodes none is unmapped. -/

namespace Sys2Proof

open Config (Params)

/-! ### What a decoded transaction is (R101) -/

/-- The register at an offset is one the tile has, and stands there (R103). -/
theorem regAt_some {q : Params} {k : TileKind} {o : Nat} {r : Reg} (h : regAt q k o = some r) :
    r.mapped q k = true ∧ r.off (q.layout k) = o := by
  unfold regAt at h
  simp only at h
  split at h
  · rename_i hd
    obtain ⟨hk, hbase, hal, hlt⟩ := hd
    subst hk
    cases h
    exact ⟨decide_eq_true hlt, by simp only [Reg.off, dmOff]; omega⟩
  · split at h
    · rename_i l hl
      obtain ⟨op, hop, ho, he⟩ := lockAt_some hl
      cases h
      rw [he]
      exact ⟨decide_eq_true hop, ho.symm⟩
    · exact ⟨mapped_of_mem_plainRegs (List.mem_of_find?_eq_some h), by simpa using List.find?_some h⟩

/-- An aligned offset in a lock's region is at an aligned place of it (R103). -/
theorem lock_op_aligned {q : Params} (hq : q.IsMap) {k : TileKind} {l : LockIx} {op : Nat} (hop : op < (q.layout k).lockStride)
    (h : lockRegionOff (q.layout k) l op % 4 = 0) : op % 4 = 0 := by
  have h0 : lockRegionOff (q.layout k) l 0 % 4 = 0 :=
    hq.aligned k (.lock l 0) (decide_eq_true (Nat.zero_lt_of_lt hop)) fun _ _ e => by cases e; rfl
  simp only [lockRegionOff] at h h0
  omega

/-- The row of a write to a register of the tile is well formed and is encoded as that write (R101). -/
theorem writeRow_wf_encode {q : Params} (hq : q.IsMap) {kind : TileId → TileKind} {t : TileId} {r : Reg} (v : Word)
    (hm : r.mapped q (kind t) = true) (h4 : r.off (q.layout (kind t)) % 4 = 0) :
    (writeRow (kind t) t v r).wf q kind = true
      ∧ encode q kind (writeRow (kind t) t v r) = busWr t (r.off (q.layout (kind t))) v := by
  cases r with
  | lock l op =>
    have hop : op < (q.layout (kind t)).lockStride := of_decide_eq_true hm
    have hal := lock_op_aligned hq hop h4
    cases hk : kind t <;> rw [hk] at hop <;>
      simp only [writeRow, Instr.wf, encode, hk, hop, hal, Reg.off, decide_true, beq_self_eq_true, Bool.and_self, and_self]
  | _ => exact ⟨hm, rfl⟩

/-- The row of a lock request on a compute tile is well formed there and is encoded as a read at the request's offset (R103). -/
theorem lockRdCt_wf_encode {q : Params} {kind : TileId → TileKind} {t : TileId} (hk : kind t = .ct) (l : LockIx)
    (a : LockKind) : (lockRdCt t l a).wf q kind = true
      ∧ encode q kind (lockRdCt t l a) = busRd t (lockOff (q.layout (kind t)) l a) := by
  rcases a with _ | (_ | _) | _ | (_ | _) <;> exact ⟨beq_iff_eq.2 hk, rfl⟩

/-- The row of a lock request on a boundary tile, likewise. -/
theorem lockRdBt_wf_encode {q : Params} {kind : TileId → TileKind} {t : TileId} (hk : kind t = .bt) (l : LockIx)
    (a : LockKind) : (lockRdBt t l a).wf q kind = true
      ∧ encode q kind (lockRdBt t l a) = busRd t (lockOff (q.layout (kind t)) l a) := by
  rcases a with _ | (_ | _) | _ | (_ | _) <;> exact ⟨beq_iff_eq.2 hk, rfl⟩

/-- The row of a read of a register of the tile is well formed and is encoded as that read (R101). -/
theorem readRow_wf_encode {q : Params} {kind : TileId → TileKind} {t : TileId} {r : Reg} {i : Instr}
    (hm : r.mapped q (kind t) = true) (h : readRow (q.layout (kind t)) (kind t) t r = some i) :
    i.wf q kind = true ∧ encode q kind i = busRd t (r.off (q.layout (kind t))) := by
  cases r with
  | lock l op =>
    obtain ⟨a, ha, rfl⟩ := Option.map_eq_some_iff.1 h
    obtain rfl : lockOp (q.layout (kind t)) a = op := by simpa using List.find?_some ha
    split
    · exact lockRdCt_wf_encode ‹_› l a
    · exact lockRdBt_wf_encode ‹_› l a
  | _ => cases h; exact ⟨hm, rfl⟩

/-- A transaction that decodes is one aligned 32-bit access, and the row of the register at its offset (R71, R101). -/
theorem decode_bus_ok {q : Params} {kind : TileId → TileKind} {t : TileId} {width : Nat} {w : Bool} {off : Nat} {v : Word}
    {i : Instr} (h : decode q kind (.bus t width w off v) = .ok i) :
    (width = 32 ∧ off % 4 = 0) ∧ ∃ r, regAt q (kind t) off = some r
      ∧ (if w then some (writeRow (kind t) t v r) else readRow (q.layout (kind t)) (kind t) t r) = some i := by
  simp only [decode] at h
  split at h
  · cases h
  · rename_i haccess
    refine ⟨by omega, ?_⟩
    split at h
    · rename_i j hd
      cases h
      unfold decodeOff at hd
      split at hd
      · exact Option.bind_eq_some_iff.1 hd
      · cases hd
    · cases h

/-- Under an address map a transaction that decodes is the encoding of a well-formed instruction (R101, R102). -/
theorem decode_bus_wf_encode {q : Params} (hq : q.IsMap) {kind : TileId → TileKind} {t : TileId} {width : Nat} {w : Bool}
    {off : Nat} {v : Word} {i : Instr} (h : decode q kind (.bus t width w off v) = .ok i) :
    i.wf q kind = true ∧ encode q kind i = .bus t 32 w off (if w then v else 0) := by
  obtain ⟨⟨-, h4⟩, r, hr, hrow⟩ := decode_bus_ok h
  obtain ⟨hm, rfl⟩ := regAt_some hr
  cases w with
  | true =>
    cases hrow
    exact writeRow_wf_encode hq v hm h4
  | false => exact readRow_wf_encode hm hrow

/-- A misaligned access, or one of another width than 32, is no instruction (R71). -/
theorem decode_bus_accessWidth {q : Params} {kind : TileId → TileKind} {t : TileId} {width : Nat} {w : Bool} {off : Nat}
    {v : Word} (h : width ≠ 32 ∨ off % 4 ≠ 0) : decode q kind (.bus t width w off v) = .error (.accessWidth off) :=
  if_pos h

/-- Under an address map an aligned access that encodes no well-formed instruction is unmapped (R79). -/
theorem decode_bus_unmapped {q : Params} (hq : q.IsMap) {kind : TileId → TileKind} {t : TileId} {w : Bool} {off : Nat}
    {v : Word} (h4 : off % 4 = 0)
    (hnone : ∀ i, i.wf q kind = true → encode q kind i ≠ .bus t 32 w off (if w then v else 0)) :
    decode q kind (.bus t 32 w off v) = .error (.unmapped off) := by
  cases hd : decodeOff q (kind t) t w off v with
  | some i =>
    have hok : decode q kind (.bus t 32 w off v) = .ok i := by
      simp only [decode, hd, h4, ne_eq, not_true_eq_false, or_self, if_false]
    obtain ⟨hwf, henc⟩ := decode_bus_wf_encode hq hok
    exact absurd henc (hnone i hwf)
  | none => simp only [decode, hd, h4, ne_eq, not_true_eq_false, or_self, if_false]

end Sys2Proof

namespace Sys2Proof.Machine

/-- An access of a wrong width or alignment records its fault and does nothing else (R71, R372). -/
theorem runRaw_of_accessWidth {r : Raw} {s : State} {off : Nat} (h : decode s.params s.kinds r = .error (.accessWidth off)) :
    runRaw r s = .next (s.raise (.accessWidth off)) := by simp only [runRaw, h]

/-- An unmapped access records its fault and does nothing else (R79, R372). -/
theorem runRaw_of_unmapped {r : Raw} {s : State} {off : Nat} (h : decode s.params s.kinds r = .error (.unmapped off)) :
    runRaw r s = .next (s.raise (.unmapped off)) := by simp only [runRaw, h]

/-- A system address that no tile holds is located nowhere (R21). -/
theorem State.locate_none {s : State} {addr : Nat}
    (h : ∀ u, ¬ ((s.tile u).ref.base ≤ addr ∧ addr < (s.tile u).ref.base + 2 ^ s.params.wOff)) : s.locate addr = none := by
  rw [State.locate, Option.map_eq_none_iff, List.find?_eq_none]
  exact fun u _ => by rw [decide_eq_true_eq]; exact h u

/-- The first fault of a clean execution. -/
theorem State.Clean.raise_eq {s : State} (h : s.Clean) (us : List Turn) (q : List HostOp) (f : Fault) :
    State.raise { s with turns := us, host := { s.host with queue := q } } f
      = { s with turns := us, host := { s.host with queue := q }, faults := [f] } := by
  simp only [State.raise, h.1, List.nil_append]

/-- Settles O6: the host's turn decodes its transaction, and a decoding error is recorded as its fault. -/
theorem hostAccessFaults : Obligations.HostAccessFaults := by
  intro s us q t width w off v hc ht
  refine ⟨fun hq => ⟨fun hacc => ?width, fun h32 h4 hmap hnone => ?unmapped, fun i hd => (decode_bus_ok hd).1⟩,
    fun hq hout => ?mmio⟩
  case width =>
    rw [hc.step_host ht hq, ← hc.raise_eq]
    exact runRaw_of_accessWidth (decode_bus_accessWidth hacc)
  case unmapped =>
    subst h32
    rw [hc.step_host ht hq, ← hc.raise_eq]
    exact runRaw_of_unmapped (decode_bus_unmapped hmap h4 hnone)
  case mmio =>
    rw [hc.step_host ht hq, ← hc.raise_eq]
    have hloc : State.locate { s with turns := us, host := { s.host with queue := q } } off = none :=
      State.locate_none (s := s) hout
    simp only [runOp, hloc]

end Sys2Proof.Machine
end

section
/-! PROOF. The round trip of the decoder and the encoder (O1, O2) and the sample words (O4): a transaction at a register's offset
decodes to the register's row, a written command to the instruction its name and its arguments give. -/

namespace Sys2Proof

open Config (Params)

/-! ### Transactions (R101, R103) -/

/-- Under an address map an aligned 32-bit transaction at the offset of a register of the tile decodes to the register's row. -/
theorem decode_row {q : Params} (hq : q.IsMap) {kind : TileId → TileKind} {t : TileId} {w : Bool} {v : Word} {r : Reg}
    {i : Instr} (hm : r.mapped q (kind t) = true) (h4 : r.off (q.layout (kind t)) % 4 = 0)
    (hrow : (if w then some (writeRow (kind t) t v r) else readRow (q.layout (kind t)) (kind t) t r) = some i) :
    decode q kind (.bus t 32 w (r.off (q.layout (kind t))) v) = .ok i := by
  have hoff : decodeOff q (kind t) t w (r.off (q.layout (kind t))) v = some i := by
    rw [decodeOff, if_pos (hq.inside _ r hm), regAt_off hq hm]
    exact hrow
  simp only [decode, h4, hoff, ne_eq, not_true_eq_false, or_self, if_false]

/-- A register other than a place of the lock-request region stands at an aligned offset, so a transaction there decodes. -/
theorem decode_plainRow {q : Params} (hq : q.IsMap) {kind : TileId → TileKind} {t : TileId} {w : Bool} {v : Word} {r : Reg}
    {i : Instr} (hm : r.mapped q (kind t) = true) (hl : ∀ l op, r ≠ .lock l op)
    (hrow : (if w then some (writeRow (kind t) t v r) else readRow (q.layout (kind t)) (kind t) t r) = some i) :
    decode q kind (.bus t 32 w (r.off (q.layout (kind t))) v) = .ok i :=
  decode_row hq hm (hq.aligned _ r hm fun l op e => absurd e (hl l op)) hrow

/-- The row of a lock request on a tile of a kind (R153 to R159). -/
def requestRow (t : TileId) (l : LockIx) (a : LockKind) : TileKind → Instr
  | .ct => lockRdCt t l a
  | .bt => lockRdBt t l a

/-- A read at a request's sub-offset selects the request's row (R103). -/
theorem readRow_request {q : Params} (hq : q.IsMap) (k : TileKind) (t : TileId) (l : LockIx) (a : LockKind) :
    readRow (q.layout k) k t (.lock l (lockOp (q.layout k) a)) = some (requestRow t l a k) := by
  simp only [readRow, lockKindOf_lockOp hq, Option.map_some]
  cases k <;> rfl

/-- A read at the offset of a lock request decodes to that request's row of the tile's kind (R103, R164). -/
theorem decode_lockRead {q : Params} (hq : q.IsMap) (kind : TileId → TileKind) (t : TileId) (l : LockIx) (a : LockKind)
    (v : Word) :
    decode q kind (.bus t 32 false (lockOff (q.layout (kind t)) l a) v) = .ok (requestRow t l a (kind t)) := by
  obtain ⟨hop, hal⟩ := hq.lockOps (kind t) a
  have hm : Reg.mapped q (kind t) (.lock l (lockOp (q.layout (kind t)) a)) = true := decide_eq_true hop
  have h4 := hq.aligned _ _ hm fun _ _ e => by cases e; exact hal
  exact decode_row hq hm h4 (readRow_request hq (kind t) t l a)

theorem decode_lockRead_ct {q : Params} (hq : q.IsMap) {kind : TileId → TileKind} {t : TileId} (hk : kind t = .ct) (l : LockIx)
    (a : LockKind) (v : Word) :
    decode q kind (.bus t 32 false (lockOff (q.layout (kind t)) l a) v) = .ok (lockRdCt t l a) := by
  rw [decode_lockRead hq, hk]; rfl

theorem decode_lockRead_bt {q : Params} (hq : q.IsMap) {kind : TileId → TileKind} {t : TileId} (hk : kind t = .bt) (l : LockIx)
    (a : LockKind) (v : Word) :
    decode q kind (.bus t 32 false (lockOff (q.layout (kind t)) l a) v) = .ok (lockRdBt t l a) := by
  rw [decode_lockRead hq, hk]; rfl

/-- A write to an aligned place of the lock-request region decodes to the write row of the tile's kind (R161). -/
theorem decode_lockWrite {q : Params} (hq : q.IsMap) {kind : TileId → TileKind} {t : TileId} (l : LockIx) {op : Nat} (v : Word)
    (hop : op < (q.layout (kind t)).lockStride) (h4 : op % 4 = 0) :
    decode q kind (busWr t (lockRegionOff (q.layout (kind t)) l op) v) = .ok (writeRow (kind t) t v (.lock l op)) := by
  have hm : Reg.mapped q (kind t) (.lock l op) = true := decide_eq_true hop
  exact decode_row hq hm (hq.aligned _ _ hm fun _ _ e => by cases e; exact h4) rfl

/-! ### Written commands (R146) -/

/-- The four families of commands are tried in turn. -/
theorem decodeLine_lock {l : Line} {i : Instr} (h : decodeLockLine l = some i) : decodeLine l = some i := by
  simp only [decodeLine, h, Option.orElse_some]

theorem decodeLine_bd {l : Line} {i : Instr} (h : decodeBdLine l = some i) (h0 : decodeLockLine l = none) :
    decodeLine l = some i := by
  simp only [decodeLine, h, h0, Option.orElse_none, Option.orElse_some]

theorem decodeLine_ch {l : Line} {i : Instr} (h : decodeChLine l = some i) (h0 : decodeLockLine l = none)
    (h1 : decodeBdLine l = none) : decodeLine l = some i := by
  simp only [decodeLine, h, h0, h1, Option.orElse_none, Option.orElse_some]

theorem decodeLine_ss {l : Line} {i : Instr} (h : decodeSsLine l = some i) (h0 : decodeLockLine l = none)
    (h1 : decodeBdLine l = none) (h2 : decodeChLine l = none) : decodeLine l = some i := by
  simp only [decodeLine, h, h0, h1, h2, Option.orElse_none]

/-- The line that a command is written as stands for that command. -/
theorem decodeLine_encode {q : Params} {kind : TileId → TileKind} {i : Instr} {l : Line} (h : encode q kind i = .line l) :
    decodeLine l = some i := by
  cases i with
  | poll => cases h; exact decodeLine_lock rfl
  | lockAcquire t n v | lockRelease t n v => cases h; cases v <;> exact decodeLine_lock rfl
  | bdClearAll | bdClear | bdCommit | bdSetNext | bdSetPacket | bdSetAddrLenMode => cases h; exact decodeLine_bd rfl rfl
  | bdSet2D => cases h; exact decodeLine_bd (by simp only [decodeBdLine, axisArgOf_name, if_true]) rfl
  | bdSetInterleave => cases h; exact decodeLine_bd (by simp only [decodeBdLine, slotArgOf_name, if_true]) rfl
  | bdSetLock =>
    cases h
    exact decodeLine_bd (by simp only [decodeBdLine, slotArgOf_name, valArgOf_tok, if_true, Option.bind_some,
        Option.map_some]) rfl
  | chResetAll | chReset | dmaInitialize | chSetStartBd | chControl => cases h; exact decodeLine_ch rfl rfl rfl
  | ssPortId =>
    cases h
    exact decodeLine_ss (by simp only [decodeSsLine, kindOf_name, dirOf_name, classOf_name, if_true, Option.bind_some,
      Option.map_some]) rfl rfl rfl
  | ssConfigureMaster | ssConfigureSlave | ssConnectCircuit | ssConfigureSlot =>
    cases h
    exact decodeLine_ss (by simp only [decodeSsLine, classOf_name, if_true, Option.bind_some, Option.map_some]) rfl rfl rfl
  | ssMstrPktConfig => cases h; exact decodeLine_ss rfl rfl rfl rfl
  | _ => cases h

/-- A line that stands for a command decodes to it. -/
theorem decode_of_line {q : Params} {kind : TileId → TileKind} {i : Instr} {l : Line} (h : encode q kind i = .line l) :
    decode q kind (encode q kind i) = .ok i := by
  rw [h]
  simp only [decode, decodeLine_encode h]

/-! ### The statements -/

/-- Settles O1: a transaction by the register whose offset it is encoded at, a command by its line, an agent's step by its
turn. -/
theorem decodeEncode : Obligations.DecodeEncode := by
  intro q kind i hq h
  cases i with
  | dmWr t wa | dmRd t wa => exact decode_plainRow hq (r := .dm wa) h nofun rfl
  | bdWr t n k | bdRd t n k => exact decode_plainRow hq (r := .bd n k) h nofun rfl
  | chCtrlWr t c | chCtrlRd t c => exact decode_plainRow hq (r := .ctrl c) h nofun rfl
  | chStartBdWr t c | chStartBdRd t c => exact decode_plainRow hq (r := .startBd c) h nofun rfl
  | chStatusWr t x | chStatusRd t x => exact decode_plainRow hq (r := .status x) h nofun rfl
  | mcfgWr t m | mcfgRd t m => exact decode_plainRow hq (r := .mcfg m) h nofun rfl
  | scfgWr t p | scfgRd t p => exact decode_plainRow hq (r := .scfg p) h nofun rfl
  | slotWr t p k | slotRd t p k => exact decode_plainRow hq (r := .slot p k) h nofun rfl
  | lockAcqNvRd t l => exact decode_lockRead_ct hq (eq_of_beq h) l .acqNV 0
  | lockAcqV0Rd t l => exact decode_lockRead_ct hq (eq_of_beq h) l (.acqV false) 0
  | lockAcqV1Rd t l => exact decode_lockRead_ct hq (eq_of_beq h) l (.acqV true) 0
  | lockRelNvRd t l => exact decode_lockRead_ct hq (eq_of_beq h) l .relNV 0
  | lockRelV0Rd t l => exact decode_lockRead_ct hq (eq_of_beq h) l (.relV false) 0
  | lockRelV1Rd t l => exact decode_lockRead_ct hq (eq_of_beq h) l (.relV true) 0
  | lockAcqNvRdBt t l => exact decode_lockRead_bt hq (eq_of_beq h) l .acqNV 0
  | lockAcqV0RdBt t l => exact decode_lockRead_bt hq (eq_of_beq h) l (.acqV false) 0
  | lockAcqV1RdBt t l => exact decode_lockRead_bt hq (eq_of_beq h) l (.acqV true) 0
  | lockRelNvRdBt t l => exact decode_lockRead_bt hq (eq_of_beq h) l .relNV 0
  | lockRelV0RdBt t l => exact decode_lockRead_bt hq (eq_of_beq h) l (.relV false) 0
  | lockRelV1RdBt t l => exact decode_lockRead_bt hq (eq_of_beq h) l (.relV true) 0
  | lockWr t l op v | lockWrBt t l op v =>
    simp only [Instr.wf, Bool.and_eq_true, beq_iff_eq, decide_eq_true_eq] at h
    obtain ⟨⟨hk, hop⟩, h4⟩ := h
    rw [← hk] at hop
    exact (decode_lockWrite hq l v hop h4).trans (by rw [hk]; rfl)
  | walkStart | walkAbandon | walkFetch | walkAcquire | walkHeader | walkTransfer | walkRelease | walkAdvance | swCircuit
  | swPktStart | swPktForward | envStep => rfl
  | _ => exact decode_of_line rfl

/-- Settles O2: the offset selects a register, whose row is well formed and encoded at that offset. -/
theorem encodeDecode : Obligations.EncodeDecode := by
  intro q kind t width w off v i hq hd
  obtain ⟨⟨hwidth, -⟩, -⟩ := decode_bus_ok hd
  obtain ⟨hwf, henc⟩ := decode_bus_wf_encode hq hd
  exact ⟨hwf, hwidth, henc⟩

/-- Settles O4, by running the decoder on each word. -/
theorem sampleWords : Obligations.SampleWords := by
  refine ⟨?bdWr, ?dmWr, ?ctrlWr, ?startBdWr, ?statusRd, ?acqNv, ?acqV1, ?relV1, ?mcfgWr, ?slotWr⟩ <;> decide

end Sys2Proof
end

section
/-! PROOF. The register field codec (O58) and the descriptors packed and unpacked with it (O59): a field that stands apart from
the others of its word reads back what was packed. -/

namespace Sys2Proof.Machine

open Config (FieldAt BdLayout)

/-! ### One field (R110, R111) -/

/-- A packed field is its value modulo `2^w`, shifted to its place (R110). -/
theorem setField_toNat {lsb w : Nat} (h : lsb + w ≤ 32) (v : Nat) : (setField v lsb w).toNat = v % 2 ^ w * 2 ^ lsb := by
  have hv : v % 2 ^ w < 2 ^ w := Nat.mod_lt _ (Nat.two_pow_pos w)
  have hw : v % 2 ^ w < 2 ^ 32 := hv.trans_le (Nat.pow_le_pow_right (by decide) (by omega))
  have hs : v % 2 ^ w * 2 ^ lsb < 2 ^ 32 :=
    calc v % 2 ^ w * 2 ^ lsb < 2 ^ w * 2 ^ lsb := Nat.mul_lt_mul_of_pos_right hv (Nat.two_pow_pos lsb)
      _ = 2 ^ (lsb + w) := by rw [Nat.pow_add, Nat.mul_comm]
      _ ≤ 2 ^ 32 := Nat.pow_le_pow_right (by decide) h
  rw [setField, BitVec.toNat_shiftLeft, BitVec.toNat_ofNat, Nat.mod_eq_of_lt hw, Nat.shiftLeft_eq, Nat.mod_eq_of_lt hs]

/-- An unpacked field is the word shifted down, modulo `2^w` (R111). -/
theorem getField_toNat (x : Word) (lsb w : Nat) : (getField x lsb w).toNat = x.toNat / 2 ^ lsb % 2 ^ w := by
  rw [getField, BitVec.toNat_ofNat, Nat.shiftRight_eq_div_pow]

/-- A packed field reads back, whatever is combined with it that the field reads nothing of. -/
theorem getField_setField_or {v lsb w : Nat} (h : lsb + w ≤ 32) {x : Word} (hx : getField x lsb w = 0) :
    getField (setField v lsb w ||| x) lsb w = BitVec.ofNat w v := by
  rw [getField_or, getField_setField_same v lsb w h, hx]
  exact BitVec.or_zero

/-- Settles O58. -/
theorem fieldCodec : Obligations.FieldCodec := by
  intro lsb w h
  have value {w v : Nat} (hv : v < 2 ^ w) : (BitVec.ofNat w v).toNat = v := by rw [BitVec.toNat_ofNat, Nat.mod_eq_of_lt hv]
  refine ⟨setField_toNat h, fun x => getField_toNat x lsb w, fun v hv => ?same,
    fun v v' lsb' w' hv hv' h' hd => ⟨?left, ?right⟩⟩
  case same => rw [getField_setField_same v lsb w h, value hv]
  case left => rw [getField_setField_or h (getField_setField_disjoint v' lsb' w' lsb w hd.symm), value hv]
  case right =>
    rw [BitVec.or_comm, getField_setField_or h' (getField_setField_disjoint v lsb w lsb' w' hd), value hv']

/-! ### A set of fields (R202, R206) -/

/-- The ranges of the fields that stand in word `k`, as `FieldsFit` reads them. -/
def rangesIn (fs : List Field) (k : BdWordIx) : List (Nat × Nat) :=
  (fs.filter fun f => decide (f.place.word = k)).map fun f => (f.place.lsb, f.width)

theorem rangesIn_cons_in {f : Field} {fs : List Field} {k : BdWordIx} (h : f.place.word = k) :
    rangesIn (f :: fs) k = (f.place.lsb, f.width) :: rangesIn fs k := by
  simp only [rangesIn, List.filter_cons, h, decide_true, if_true, List.map_cons]

theorem rangesIn_cons_out {f : Field} {fs : List Field} {k : BdWordIx} (h : f.place.word ≠ k) :
    rangesIn (f :: fs) k = rangesIn fs k := by
  simp only [rangesIn, List.filter_cons, h, decide_false, Bool.false_eq_true, if_false]

theorem mem_rangesIn {f : Field} {fs : List Field} (h : f ∈ fs) : (f.place.lsb, f.width) ∈ rangesIn fs f.place.word :=
  List.mem_map_of_mem (List.mem_filter.2 ⟨h, decide_eq_true rfl⟩)

theorem fieldsWord_cons_in {f : Field} {fs : List Field} {k : BdWordIx} (h : f.place.word = k) :
    fieldsWord (f :: fs) k = setField f.value f.place.lsb f.width ||| fieldsWord fs k := if_pos h

theorem fieldsWord_cons_out {f : Field} {fs : List Field} {k : BdWordIx} (h : f.place.word ≠ k) :
    fieldsWord (f :: fs) k = fieldsWord fs k := if_neg h

/-- A range apart from every field of a word reads 0 there. -/
theorem getField_fieldsWord_apart {fs : List Field} {k : BdWordIx} {lsb w : Nat}
    (h : ∀ g ∈ rangesIn fs k, lsb + w ≤ g.1 ∨ g.1 + g.2 ≤ lsb) : getField (fieldsWord fs k) lsb w = 0 := by
  induction fs with
  | nil => simp [fieldsWord, getField]
  | cons f fs ih =>
    by_cases hk : f.place.word = k
    · rw [rangesIn_cons_in hk] at h
      obtain ⟨hf, hfs⟩ := List.forall_mem_cons.1 h
      rw [fieldsWord_cons_in hk, getField_or, getField_setField_disjoint _ _ _ _ _ hf.symm, ih hfs]
      exact BitVec.or_zero
    · rw [rangesIn_cons_out hk] at h
      rw [fieldsWord_cons_out hk, ih h]

/-- A field of a set whose fields lie inside their words and apart reads back its value (R110, R111). -/
theorem getField_fieldsWord {fs : List Field} {f : Field} (hf : f ∈ fs) (hfit : FieldsFit (rangesIn fs f.place.word)) :
    getField (fieldsWord fs f.place.word) f.place.lsb f.width = BitVec.ofNat f.width f.value := by
  induction fs with
  | nil => cases hf
  | cons g gs ih =>
    obtain ⟨hin, hapart⟩ := hfit
    by_cases hk : g.place.word = f.place.word
    · rw [rangesIn_cons_in hk] at hin hapart
      obtain ⟨hgs, hrest⟩ := List.pairwise_cons.1 hapart
      rw [fieldsWord_cons_in hk]
      rcases List.mem_cons.1 hf with rfl | hf
      · exact getField_setField_or (hin _ List.mem_cons_self) (getField_fieldsWord_apart hgs)
      · rw [getField_or, getField_setField_disjoint _ _ _ _ _ (hgs _ (mem_rangesIn hf)),
          ih hf ⟨(List.forall_mem_cons.1 hin).2, hrest⟩]
        exact BitVec.zero_or
    · rw [rangesIn_cons_out hk] at hin hapart
      rw [fieldsWord_cons_out hk]
      exact ih ((List.mem_cons.1 hf).resolve_left fun e => hk (e ▸ rfl)) ⟨hin, hapart⟩

theorem fieldsMask_cons_in {f : Field} {fs : List Field} {k : BdWordIx} (h : f.place.word = k) :
    fieldsMask (f :: fs) k = setField (2 ^ f.width - 1) f.place.lsb f.width ||| fieldsMask fs k := if_pos h

theorem fieldsMask_cons_out {f : Field} {fs : List Field} {k : BdWordIx} (h : f.place.word ≠ k) :
    fieldsMask (f :: fs) k = fieldsMask fs k := if_neg h

/-- A packed field sets no bit that the field of all ones does not. -/
theorem setField_and_not_ones (v lsb w : Nat) : setField v lsb w &&& ~~~setField (2 ^ w - 1) lsb w = 0 := by
  apply BitVec.eq_of_getLsbD_eq
  intro i hi
  have hlow (h : lsb ≤ i ∧ i < lsb + w) : i - lsb < w := by omega
  simp only [BitVec.getLsbD_and, BitVec.getLsbD_not, getLsbD_setField, Nat.testBit_two_pow_sub_one, hi, true_and]
  by_cases h : lsb ≤ i ∧ i < lsb + w
  · simp [h, hlow h]
  · simp [h]

/-- Words that set no bit outside two masks set none outside both, combined. -/
theorem or_and_not_or {x y a b : Word} (hx : x &&& ~~~a = 0) (hy : y &&& ~~~b = 0) : (x ||| y) &&& ~~~(a ||| b) = 0 := by
  calc (x ||| y) &&& ~~~(a ||| b) = x &&& ~~~a &&& ~~~b ||| y &&& ~~~b &&& ~~~a := by ext i hi; grind
    _ = 0 := by rw [hx, hy]; simp

/-- A set of fields sets no bit outside its fields (R140). -/
theorem fieldsWord_and_not_mask (fs : List Field) (k : BdWordIx) : fieldsWord fs k &&& ~~~fieldsMask fs k = 0 := by
  induction fs with
  | nil => exact BitVec.zero_and
  | cons f fs ih =>
    by_cases hk : f.place.word = k
    · rw [fieldsWord_cons_in hk, fieldsMask_cons_in hk]
      exact or_and_not_or (setField_and_not_ones ..) ih
    · rw [fieldsWord_cons_out hk, fieldsMask_cons_out hk, ih]

/-! ### Where the fields of a descriptor stand -/

/-- A field without its value. -/
def Field.shape (f : Field) : FieldAt × Nat := (f.place, f.width)

/-- The values of the fields move none of their ranges. -/
theorem rangesIn_of_shape {fs gs : List Field} (h : fs.map Field.shape = gs.map Field.shape) (k : BdWordIx) :
    rangesIn fs k = rangesIn gs k := by
  have ranges (fs : List Field) : rangesIn fs k
      = ((fs.map Field.shape).filter fun x => decide (x.1.word = k)).map fun x => (x.1.lsb, x.2) := by
    rw [List.filter_map, List.map_map]; rfl
  rw [ranges, ranges, h]

theorem fieldsMask_of_shape {fs gs : List Field} (h : fs.map Field.shape = gs.map Field.shape) (k : BdWordIx) :
    fieldsMask fs k = fieldsMask gs k := by
  have mask (fs : List Field) : fieldsMask fs k = (fs.map Field.shape).foldr
      (fun x m => if x.1.word = k then setField (2 ^ x.2 - 1) x.1.lsb x.2 ||| m else m) 0 := by
    rw [List.foldr_map]; rfl
  rw [mask, mask, h]

/-- Every descriptor has its fields at the places of the layout. -/
theorem bdFieldsOf_shape (L : BdLayout) (b : MirrorBd) :
    (bdFieldsOf L b).map Field.shape = (bdFieldsOf L .cleared).map Field.shape := rfl

/-- A field of a mirror BD reads back from its packed words (R202, R206). -/
theorem fieldAt_packBd {L : BdLayout} (hL : L.Fits) (b : MirrorBd) :
    ∀ f ∈ bdFieldsOf L b, fieldAt (packBd L b) f.place f.width = BitVec.ofNat f.width f.value := by
  intro f hf
  have hfit : FieldsFit (rangesIn (bdFieldsOf L b) f.place.word) := by
    rw [rangesIn_of_shape (bdFieldsOf_shape L b)]; exact hL f.place.word
  simpa only [fieldAt, packBd, Fin.getElem_fin, Vector.getElem_ofFn] using getField_fieldsWord hf hfit

/-- No bit of the packed words stands outside the fields (R140). -/
theorem packBd_reserved (L : BdLayout) (b : MirrorBd) (k : BdWordIx) : (packBd L b)[k] &&& ~~~bdMask L k = 0 := by
  rw [bdMask, ← fieldsMask_of_shape (bdFieldsOf_shape L b)]
  simpa only [packBd, Fin.getElem_fin, Vector.getElem_ofFn] using fieldsWord_and_not_mask (bdFieldsOf L b) k

/-- A one-bit field is the bit of the field of width 1 at its place. -/
theorem bitAt_eq_fieldAt (w : Vector Word 7) (p : FieldAt) : bitAt w p = (fieldAt w p 1).getLsbD 0 := by
  rw [bitAt, fieldAt, getLsbD_getField]; rfl

theorem getLsbD_ofNat_flag (b : Bool) : (BitVec.ofNat 1 b.toNat).getLsbD 0 = b := by cases b <;> rfl

/-- The walker decodes from the packed words of a mirror BD the descriptor it describes (R202, R206). -/
theorem unpackBd_packBd {L : BdLayout} (hL : L.Fits) (b : MirrorBd) :
    unpackBd L (packBd L b) = ⟨b.fields, true, if b.fields.nextEn then BitVec.ofNat 4 b.nextBd.toNat else 0⟩ := by
  have h := fieldAt_packBd hL b
  simp only [bdFieldsOf, slotFieldsOf, List.cons_append, List.nil_append, List.forall_mem_cons,
    BitVec.ofNat_toNat, BitVec.setWidth_eq] at h
  simp only [unpackBd, unpackSlot, bitAt_eq_fieldAt, h, getLsbD_ofNat_flag, apply_ite (BitVec.ofNat 4)]
  rfl

/-! ### The reference layout (R103, R120 to R126) -/

theorem reference_fits : BdLayout.reference.Fits := by unfold BdLayout.Fits FieldsFit; decide

/-- The cleared BD packs to the words of R205. -/
theorem packBd_cleared : packBd .reference .cleared = #v[0, 0, 0x00FF0001, 0xFFFF0100, 0, 0, 0x80000000] := by decide

/-- Settles O59: the fields of a layout that fits unpack one by one, and those of the reference layout stand where it says. -/
theorem unpackPack : Obligations.UnpackPack :=
  ⟨fun L b => ⟨fun hL => unpackBd_packBd hL b, packBd_reserved L b⟩, reference_fits, fun _ => rfl, packBd_cleared⟩

end Sys2Proof.Machine
end

section
/-! PROOF. The lock commands (O46) and the writes that only fault (O27): a lock command checks its arguments and queues a poll,
each attempt of which is one lock request of the host. -/

namespace Sys2Proof.Machine

/-! ### Commands (R164 to R168) -/

/-- A lock value that is the sentinel reads as none (R146). -/
theorem readValArg_noValue (nv : Nat) : readValArg nv (.num nv) = some none := if_pos rfl

theorem readValArg_num {nv n : Nat} (h : n ≠ nv) :
    readValArg nv (.num n) = if n = 0 then some (some false) else if n = 1 then some (some true) else none := if_neg h

/-- The first check of a lock command is its lock index (R165). -/
theorem lockCommand_badLockId {s : State} {n : Nat} (hn : 16 ≤ n) (acquire : Bool) (t : TileId) (x : ValArg) (timeout : Nat) :
    lockCommand acquire t n x timeout s = s.ret (.err .badLockId) := by
  simp only [lockCommand, checked, lockChecks, firstErr, decide_eq_false (Nat.not_lt.2 hn), Bool.false_eq_true, if_false]

/-- The second is its lock value (R165). -/
theorem lockCommand_badLockValue {s : State} {n : Nat} {x : ValArg} (hn : n < 16) (hx : readValArg s.params.noValue x = none)
    (acquire : Bool) (t : TileId) (timeout : Nat) : lockCommand acquire t n x timeout s = s.ret (.err .badLockValue) := by
  simp only [lockCommand, checked, lockChecks, firstErr, decide_eq_true hn, hx, Option.isSome_none, Bool.false_eq_true,
    if_true, if_false]

/-- A lock command that passes both checks begins the poll of its request (R164 to R166). -/
theorem lockCommand_polls {s : State} {l : LockIx} {x : ValArg} {v : Option Bool} (hx : readValArg s.params.noValue x = some v)
    (acquire : Bool) (t : TileId) (timeout : Nat) :
    let q := lockCmdKind acquire v
    let bit := 2 ^ lockOkBit s.params (s.kind t) q
    lockCommand acquire t l.val x timeout s = beginPoll t (lockOff (s.layout t) l q) bit bit timeout s := by
  have hl : Fin.ofNat 16 l.val = l := Fin.ext (Nat.mod_eq_of_lt l.isLt)
  simp only [lockCommand, checked, lockChecks, firstErr, decide_eq_true l.isLt, hx, Option.isSome_some, Option.getD_some, hl,
      if_true]

/-- A poll begins by queueing its first attempt, and changes nothing but the host's side (R163). -/
theorem beginPoll_facts {i : Instr} {s : State} {t : TileId} {off mask expected timeout : Nat}
    (h : exec i s = .next (beginPoll t off mask expected timeout s)) :
    ∃ s', exec i s = .next s' ∧ OnlyHost s s'
      ∧ s'.host = { s.host with
          queue := .pollTry t off mask expected (if timeout = 0 then 0 else Config.freeNat s.draws) :: s.host.queue
          result := none } := ⟨_, h, ⟨rfl, fun _ _ => rfl⟩, rfl⟩

/-! ### Attempts (R163, R167) -/

/-- A lock-request row is run as a request of its kind on a tile of its kind (R152). -/
theorem exec_lockRdCt (t : TileId) (l : LockIx) (a : LockKind) (s : State) :
    exec (lockRdCt t l a) s = .next (lockRead .ct t l a s) := by
  rcases a with _ | (_ | _) | _ | (_ | _) <;> rfl

theorem exec_lockRdBt (t : TileId) (l : LockIx) (a : LockKind) (s : State) :
    exec (lockRdBt t l a) s = .next (lockRead .bt t l a s) := by
  rcases a with _ | (_ | _) | _ | (_ | _) <;> rfl

/-- In a layout that is an address map a host read at a request's offset is that request (R152, R164). -/
theorem runRaw_lockRead {s : State} (hmap : s.params.IsMap) (t : TileId) (l : LockIx) (a : LockKind) :
    runRaw (.bus t 32 false (lockOff (s.layout t) l a) 0) s = .next (s.hostLock t l a) := by
  cases hk : s.kind t with
  | ct =>
    refine (runRaw_of_decode (decode_lockRead_ct hmap (kind := s.kinds) hk l a 0)).trans ?_
    rw [exec_lockRdCt, lockRead, onKind_pos hk]
  | bt =>
    refine (runRaw_of_decode (decode_lockRead_bt hmap (kind := s.kinds) hk l a 0)).trans ?_
    rw [exec_lockRdBt, lockRead, onKind_pos hk]

/-- An attempt on a request's offset sees the success bit exactly where the request succeeds (R133). -/
theorem lockWord_and_bit (p : Config.Params) (k : TileKind) (a : LockKind) (ok : Bool) :
    (lockWord p k a ok).toNat &&& 2 ^ lockOkBit p k a = 2 ^ lockOkBit p k a ↔ ok = true := by
  have hbit : lockOkBit p k a < 32 := by cases k <;> exact Fin.isLt _
  rw [lockWord_eq]
  cases ok with
  | true => simp [BitVec.toNat_shiftLeft, Nat.shiftLeft_eq, Nat.mod_eq_of_lt (Nat.pow_lt_pow_right (Nat.lt_succ_self 1) hbit)]
  | false => simp [(Nat.two_pow_pos _).ne]

/-- The end of an attempt changes the host's side only, and no engine. -/
theorem afterTry_frame (t : TileId) (off mask expected more : Nat) (s : State) :
    let s' := afterTry t off mask expected more s
    s' = { s with host := s'.host } ∧ s'.host.eng = s.host.eng := by
  simp only [afterTry]
  split
  · exact ⟨rfl, rfl⟩
  · split
    · exact ⟨rfl, rfl⟩
    · cases more <;> exact ⟨rfl, rfl⟩

/-- The attempt that finds what it expects is the last, and the command returns true (R163, R168). -/
theorem afterTry_success {s : State} {mask expected : Nat} (he : s.ended = false)
    (h : s.host.readData.toNat &&& mask = expected) (t : TileId) (off more : Nat) :
    afterTry t off mask expected more s = s.ret (.bool true) := by
  simp only [afterTry, he, h, Bool.false_eq_true, if_true, if_false]

/-- The last attempt, where it fails, ends the command, which returns false (R163, R168). -/
theorem afterTry_last {s : State} {mask expected : Nat} (he : s.ended = false)
    (h : s.host.readData.toNat &&& mask ≠ expected) (t : TileId) (off : Nat) :
    afterTry t off mask expected 0 s = s.ret (.bool false) := by
  simp only [afterTry, he, h, Bool.false_eq_true, if_false]

/-- A failed attempt that is not the last leads to the next (R163). -/
theorem afterTry_again {s : State} {mask expected : Nat} (he : s.ended = false)
    (h : s.host.readData.toNat &&& mask ≠ expected) (t : TileId) (off k : Nat) :
    afterTry t off mask expected (k + 1) s = s.setQueue (.pollTry t off mask expected k :: s.host.queue) := by
  simp only [afterTry, he, h, Bool.false_eq_true, if_false]

/-- A host whose next operation is an attempt on a request's offset makes the request. -/
theorem hostTurn_lockAttempt {s : State} (hmap : s.params.IsMap) {t : TileId} {l : LockIx} {a : LockKind}
    {mask expected more : Nat} {rest : List HostOp}
    (hq : s.host.queue = .pollTry t (lockOff (s.layout t) l a) mask expected more :: rest) :
    hostTurn s = .next (afterTry t (lockOff (s.layout t) l a) mask expected more ((s.setQueue rest).hostLock t l a)) := by
  have hrun : runRaw (.bus t 32 false (lockOff (s.layout t) l a) 0) (s.setQueue rest)
      = .next ((s.setQueue rest).hostLock t l a) := runRaw_lockRead (s := s.setQueue rest) hmap t l a
  simp only [hostTurn, hq, runOp, hrun]

/-- An attempt of a lock command, of a request whose outcome is `ok` and the lock `L'` (R163, R167, R168). -/
theorem lockAttempt_facts {s : State} {t : TileId} {l : LockIx} {a : LockKind} {ok : Bool} {L' : Lock} {more : Nat}
    {rest : List HostOp} (hc : s.Clean) (hmap : s.params.IsMap)
    (hq : s.host.queue = .pollTry t (lockOff (s.layout t) l a) (2 ^ lockOkBit s.params (s.kind t) a)
      (2 ^ lockOkBit s.params (s.kind t) a) more :: rest)
    (h : lockStep s.params.relFree (Config.freeBit s.draws) (s.tile t).lock[l] a = (ok, L')) :
    ∃ s', hostTurn s = .next s' ∧ s'.Clean ∧ SameMemory s s' ∧ s'.host.eng = s.host.eng
      ∧ (∀ u, u ≠ t → s'.tile u = s.tile u) ∧ s'.tile t = { s.tile t with lock := (s.tile t).lock.set l L' }
      ∧ (ok = true → s'.host.result = some (.bool true) ∧ s'.host.queue = rest)
      ∧ (ok = false → more = 0 → s'.host.result = some (.bool false) ∧ s'.host.queue = rest)
      ∧ ∀ k, ok = false → more = k + 1 → s'.host.result = s.host.result
          ∧ s'.host.queue = .pollTry t (lockOff (s.layout t) l a) (2 ^ lockOkBit s.params (s.kind t) a)
              (2 ^ lockOkBit s.params (s.kind t) a) k :: rest := by
  let s1 := (s.setQueue rest).hostLock t l a
  have hclean : s1.Clean := hc
  have hended : s1.ended = false := by
    obtain ⟨hf, hr, hp⟩ := hclean
    simp only [State.ended, hf, hr, hp]; rfl
  have hread : s1.host.readData = lockWord s.params (s.kind t) a ok := congrArg (lockWord _ _ a) (congrArg Prod.fst h)
  have hseen : s1.host.readData.toNat &&& 2 ^ lockOkBit s.params (s.kind t) a = 2 ^ lockOkBit s.params (s.kind t) a ↔
      ok = true := by
    rw [hread]; exact lockWord_and_bit ..
  have hother : ∀ u, u ≠ t → s1.tile u = s.tile u := fun u hu =>
    State.lockRequest_tile_ne (s.setQueue rest) .host t u l a hu
  have htile : s1.tile t = { s.tile t with lock := (s.tile t).lock.set l L' } := by
    refine (State.lockRequest_tile_same (s.setQueue rest) .host t l a).trans ?_
    exact congrArg (fun x => { s.tile t with lock := (s.tile t).lock.set l x }) (congrArg Prod.snd h)
  have hmem : SameMemory s s1 := SameMemory.lockRequest (s.setQueue rest) .host t l a
  obtain ⟨hframe, heng⟩ := afterTry_frame t (lockOff (s.layout t) l a) (2 ^ lockOkBit s.params (s.kind t) a)
    (2 ^ lockOkBit s.params (s.kind t) a) more s1
  refine ⟨_, hostTurn_lockAttempt hmap hq, ?clean, ?memory, heng, ?others, ?tile, fun hok => ?success, fun hok hm => ?last,
    fun k hok hm => ?again⟩
  case clean => rw [hframe]; exact hclean
  case memory => rw [hframe]; exact hmem
  case others => rw [hframe]; exact hother
  case tile => rw [hframe]; exact htile
  case success => rw [afterTry_success hended (hseen.2 hok)]; exact ⟨rfl, rfl⟩
  case last =>
    subst hm
    rw [afterTry_last hended (by rw [Ne, hseen, hok]; nofun)]; exact ⟨rfl, rfl⟩
  case again =>
    subst hm
    rw [afterTry_again hended (by rw [Ne, hseen, hok]; nofun)]; exact ⟨rfl, rfl⟩

/-! ### The statements -/

/-- Settles O46: the checks, the poll that passes them, and each attempt as the lock step its outcome names. -/
theorem lockCommands : Obligations.LockCommands := by
  refine ⟨fun nv => ?values, fun s t n x timeout => ⟨?checks, fun l v hl hx => ?polls⟩, ?attempt⟩
  case values =>
    refine ⟨rfl, readValArg_noValue nv, fun h => ?_, fun h => ?_, fun n h h0 h1 => ?_⟩
    · rw [readValArg_num h.symm]; rfl
    · rw [readValArg_num h.symm]; rfl
    · rw [readValArg_num h, if_neg h0, if_neg h1]
  case checks =>
    exact forall_mem_pair
      ⟨fun hn => congrArg Host.Outcome.next (lockCommand_badLockId hn true t x timeout),
        fun hn hx => congrArg Host.Outcome.next (lockCommand_badLockValue hn hx true t timeout)⟩
      ⟨fun hn => congrArg Host.Outcome.next (lockCommand_badLockId hn false t x timeout),
        fun hn hx => congrArg Host.Outcome.next (lockCommand_badLockValue hn hx false t timeout)⟩
  case polls =>
    subst hl
    have acquire := beginPoll_facts (i := .lockAcquire t l.val x timeout) (s := s)
      (congrArg Host.Outcome.next (lockCommand_polls hx true t timeout))
    have release := beginPoll_facts (i := .lockRelease t l.val x timeout) (s := s)
      (congrArg Host.Outcome.next (lockCommand_polls hx false t timeout))
    cases v <;> exact ⟨acquire, release⟩
  case attempt =>
    intro s t l v ok L' q more rest L bit hc hmap hq hout
    have hstep : lockStep s.params.relFree (Config.freeBit s.draws) (s.tile t).lock[l] q = (ok, L') := by
      rcases hout with ⟨rfl, hout⟩ | ⟨rfl, hout⟩
      · cases v <;> exact lockStep_acquire_of_outcome hout
      · cases v <;> exact lockStep_release_of_outcome hout
    exact lockAttempt_facts hc hmap hq hstep

/-- A write in the region of a lock of a tile of the row's kind is a fault and nothing else (R161). -/
theorem lockWrite_reserved {s : State} {k : TileKind} {t : TileId} {l : LockIx} {op : Nat} (hk : s.kind t = k)
    (hop : op < (s.layout t).lockStride) :
    lockWrite k t l op s = s.raise (.reservedWrite (lockRegionOff (s.layout t) l op)) := by
  simp only [lockWrite, onKind_pos hk, below_pos hop]

/-- The status registers stand at 0x1DF00 and 0x1DF10 in the reference layout (R103). -/
theorem statusOff_reference (k : TileKind) (i : Fin 2) : statusOff (.reference k) i = 0x1DF00 + 0x10 * i.val := by
  match i with
  | 0 => rfl
  | 1 => rfl

/-- Settles O27: the kind check and the bound check pass, and what is left of each row is its fault. -/
theorem reservedWritesFault : Obligations.ReservedWritesFault := by
  intro s t v L
  refine ⟨fun hk i => ⟨exec_of_kind hk rfl, fun hL => by rw [hL, statusOff_reference]⟩, fun l op hop => ⟨fun hk => ?ct,
      fun hk => ?bt⟩,
    fun hL => by rw [hL]; exact ⟨rfl, rfl⟩, fun hL => by rw [hL]; exact ⟨rfl, rfl⟩, fun f hf => ?ends⟩
  case ct => exact congrArg Host.Outcome.next (lockWrite_reserved hk hop)
  case bt => exact congrArg Host.Outcome.next (lockWrite_reserved hk hop)
  case ends => exact step_of_fault (congrArg (· ++ [f]) hf)

end Sys2Proof.Machine
end

section
/-! PROOF. The decoder against the opcode table (O3).  A mask keeps the bits from one place up and those below another, so that a
row selects the words of a range and a stride, which are those at the offsets of the row's registers. -/

namespace Sys2Proof

open Config (Params)

/-! ### Masks (R101) -/

/-- The mask of the bits from `hi` up and of those below `lo`. -/
def blockMask (hi lo : Nat) : BitVec 19 := BitVec.allOnes 19 <<< hi ||| BitVec.allOnes 19 >>> (19 - lo)

theorem getLsbD_blockMask {hi lo i : Nat} (hlo : lo ≤ 19) (hi' : i < 19) :
    (blockMask hi lo).getLsbD i = decide (hi ≤ i ∨ i < lo) := by
  have h : i - hi < 19 := by omega
  have h' : 19 - lo + i < 19 ↔ i < lo := by omega
  simp only [blockMask, BitVec.getLsbD_or, BitVec.getLsbD_shiftLeft, BitVec.getLsbD_ushiftRight,
    BitVec.getLsbD_allOnes, hi', h, h', decide_true, Bool.true_and, Bool.and_true]
  by_cases hh : i < hi
  · simp [hh, Nat.not_le.2 hh]
  · simp [hh, Nat.le_of_not_lt hh]

/-- Two words agree under such a mask exactly where they agree above `hi` and below `lo`. -/
theorem and_blockMask {hi lo : Nat} (hlo : lo ≤ 19) (T p : BitVec 19) : T &&& blockMask hi lo = p &&& blockMask hi lo
    ↔ T.toNat / 2 ^ hi = p.toNat / 2 ^ hi ∧ T.toNat % 2 ^ lo = p.toNat % 2 ^ lo := by
  have bits : T &&& blockMask hi lo = p &&& blockMask hi lo
      ↔ ∀ i, i < 19 → hi ≤ i ∨ i < lo → T.getLsbD i = p.getLsbD i := by
    constructor
    · intro h i hi' hb
      have := congrArg (·.getLsbD i) h
      simpa [getLsbD_blockMask hlo hi', hb] using this
    · intro h
      apply BitVec.eq_of_getLsbD_eq
      intro i hi'
      rw [BitVec.getLsbD_and, BitVec.getLsbD_and, getLsbD_blockMask hlo hi']
      by_cases hb : hi ≤ i ∨ i < lo
      · rw [h i hi' hb]
      · rw [decide_eq_false hb, Bool.and_false, Bool.and_false]
  rw [bits]
  constructor
  · intro h
    constructor
    · apply Nat.eq_of_testBit_eq
      intro i
      rw [Nat.testBit_div_two_pow, Nat.testBit_div_two_pow, BitVec.testBit_toNat, BitVec.testBit_toNat]
      by_cases hi' : i + hi < 19
      · exact h _ hi' (by omega)
      · rw [BitVec.getLsbD_of_ge _ _ (by omega), BitVec.getLsbD_of_ge _ _ (by omega)]
    · apply Nat.eq_of_testBit_eq
      intro i
      rw [Nat.testBit_mod_two_pow, Nat.testBit_mod_two_pow, BitVec.testBit_toNat, BitVec.testBit_toNat]
      by_cases hi' : i < lo
      · rw [h i (by omega) (.inr hi')]
      · rw [decide_eq_false hi', Bool.false_and, Bool.false_and]
  · rintro ⟨hdiv, hmod⟩ i - (hhi | hlo')
    · have := congrArg (·.testBit (i - hi)) hdiv
      simpa only [Nat.testBit_div_two_pow, Nat.sub_add_cancel hhi, BitVec.testBit_toNat] using this
    · have := congrArg (·.testBit i) hmod
      simpa only [Nat.testBit_mod_two_pow, decide_eq_true hlo', Bool.true_and, BitVec.testBit_toNat] using this

/-- A word with no bit between the two places is left as it is. -/
theorem and_blockMask_self {hi lo : Nat} (hlo : lo ≤ 19) {p : BitVec 19} (hp : p.toNat % 2 ^ hi < 2 ^ lo) :
    p &&& blockMask hi lo = p := by
  apply BitVec.eq_of_getLsbD_eq
  intro i hi'
  rw [BitVec.getLsbD_and, getLsbD_blockMask hlo hi']
  by_cases hb : hi ≤ i ∨ i < lo
  · rw [decide_eq_true hb, Bool.and_true]
  · have hbit : (p.toNat % 2 ^ hi).testBit i = false :=
      Nat.testBit_lt_two_pow (hp.trans_le (Nat.pow_le_pow_right (by decide) (by omega)))
    have hlt : i < hi := by omega
    rw [Nat.testBit_mod_two_pow, decide_eq_true hlt, Bool.true_and, BitVec.testBit_toNat] at hbit
    rw [hbit, Bool.false_and]

/-! ### What a row selects -/

/-- A row without a constraint selects the words that agree with its pattern above `hi` and below `lo`, on a tile of its kind. -/
theorem selects_unbounded {m : String} {kd : Option TileKind} {mask pat T : BitVec 19} {k : TileKind} (hi lo : Nat)
    (hlo : lo ≤ 19) (hmask : mask = blockMask hi lo) (hpat : pat.toNat % 2 ^ hi < 2 ^ lo) :
    Row.selects ⟨m, kd, mask, pat, none⟩ k T = true ↔
      (kd = none ∨ kd = some k) ∧ T.toNat / 2 ^ hi = pat.toNat / 2 ^ hi ∧ T.toNat % 2 ^ lo = pat.toNat % 2 ^ lo := by
  rw [← and_blockMask hlo, ← hmask, (hmask ▸ and_blockMask_self hlo hpat : pat &&& mask = pat)]
  simp only [Row.selects, Bool.and_true, Bool.and_eq_true, Bool.or_eq_true, beq_iff_eq]

/-- A row with a constraint, likewise, where its field is below the bound. -/
theorem selects_bounded {m : String} {kd : Option TileKind} {mask pat T : BitVec 19} {b : TileKind → Nat} {lsb w : Nat}
    {k : TileKind} (hi lo : Nat) (hlo : lo ≤ 19) (hmask : mask = blockMask hi lo) (hpat : pat.toNat % 2 ^ hi < 2 ^ lo) :
    Row.selects ⟨m, kd, mask, pat, some (b, lsb, w)⟩ k T = true ↔
      ((kd = none ∨ kd = some k) ∧ T.toNat / 2 ^ hi = pat.toNat / 2 ^ hi ∧ T.toNat % 2 ^ lo = pat.toNat % 2 ^ lo)
        ∧ T.toNat / 2 ^ lsb % 2 ^ w < b k := by
  rw [← selects_unbounded (m := m) hi lo hlo hmask hpat]
  simp only [Row.selects, Bool.and_true, Bool.and_eq_true, decide_eq_true_eq, Nat.shiftRight_eq_div_pow]

/-- A row's kind column that names a kind. -/
theorem kind_column {kd k : TileKind} : (some kd = none ∨ some kd = some k) ↔ kd = k := by
  simp only [reduceCtorEq, false_or, Option.some.injEq]

/-! ### The rows of each register, in the reference layout

`W` is the write bit of the word, at its place. -/

theorem selects_dm {m : String} {k : TileKind} {T : BitVec 19} {W : Nat} (hW : W = 0x40000 ∨ W = 0) :
    Row.selects ⟨m, some .ct, 0x78003, BitVec.ofNat 19 W, none⟩ k T = true ↔
      ∃ wa, Reg.mapped .reference k (.dm wa) = true ∧ T.toNat = W + (Reg.dm wa).off (Params.reference.layout k) := by
  rw [selects_unbounded 15 2 (by decide) (by decide) (by rw [BitVec.toNat_ofNat]; omega), kind_column]
  simp only [reference_mapped, reference_off, BitVec.toNat_ofNat]
  constructor
  · rintro ⟨rfl, hhi, hlo⟩
    exact ⟨T.toNat % 2 ^ 15 / 4, ⟨rfl, by omega⟩, by omega⟩
  · rintro ⟨wa, ⟨rfl, hwa⟩, hT⟩
    exact ⟨rfl, by omega, by omega⟩

theorem selects_bd {m : String} {k : TileKind} {T : BitVec 19} {W : Nat} (hW : W = 0x40000 ∨ W = 0) :
    Row.selects ⟨m, some .ct, 0x7FE03, BitVec.ofNat 19 (W + 0x1D000), some (fun _ => 7, 2, 3)⟩ k T = true ↔
      ∃ n j, Reg.mapped .reference k (.bd n j) = true ∧ T.toNat = W + (Reg.bd n j).off (Params.reference.layout k) := by
  rw [selects_bounded 9 2 (by decide) (by decide) (by rw [BitVec.toNat_ofNat]; omega), kind_column]
  simp only [reference_mapped, reference_off, BitVec.toNat_ofNat]
  constructor
  · rintro ⟨⟨rfl, hhi, hlo⟩, hj⟩
    exact ⟨⟨T.toNat % 2 ^ 9 / 32, by omega⟩, ⟨T.toNat / 2 ^ 2 % 2 ^ 3, hj⟩, rfl, by simp only; omega⟩
  · rintro ⟨n, j, rfl, hT⟩
    exact ⟨⟨rfl, by omega, by omega⟩, by omega⟩

/-- The rows of a register that each channel has, 8 bytes apart. -/
theorem selects_perChannel {m : String} {k : TileKind} {T : BitVec 19} {W base : Nat} (hW : W = 0x40000 ∨ W = 0)
    (hbase : base < 2 ^ 18 ∧ base % 2 ^ 5 < 8) {reg : ChIx → Reg}
    (hmapped : ∀ c, Reg.mapped .reference k (reg c) = true ↔ k = .ct)
    (hoff : ∀ c, (reg c).off (Params.reference.layout k) = base + 8 * c.val) :
    Row.selects ⟨m, some .ct, 0x7FFE7, BitVec.ofNat 19 (W + base), none⟩ k T = true ↔
      ∃ c, Reg.mapped .reference k (reg c) = true ∧ T.toNat = W + (reg c).off (Params.reference.layout k) := by
  rw [selects_unbounded 5 3 (by decide) (by decide) (by rw [BitVec.toNat_ofNat]; omega), kind_column]
  simp only [hmapped, hoff, BitVec.toNat_ofNat]
  constructor
  · rintro ⟨rfl, hhi, hlo⟩
    exact ⟨⟨T.toNat % 2 ^ 5 / 8, by omega⟩, rfl, by simp only; omega⟩
  · rintro ⟨c, rfl, hT⟩
    exact ⟨rfl, by omega, by omega⟩

theorem selects_ctrl {m : String} {k : TileKind} {T : BitVec 19} {W : Nat} (hW : W = 0x40000 ∨ W = 0) :
    Row.selects ⟨m, some .ct, 0x7FFE7, BitVec.ofNat 19 (W + 0x1DE00), none⟩ k T = true ↔
      ∃ c, Reg.mapped .reference k (.ctrl c) = true ∧ T.toNat = W + (Reg.ctrl c).off (Params.reference.layout k) :=
  selects_perChannel hW (by decide) (fun _ => reference_mapped ..) fun _ => reference_off ..

theorem selects_startBd {m : String} {k : TileKind} {T : BitVec 19} {W : Nat} (hW : W = 0x40000 ∨ W = 0) :
    Row.selects ⟨m, some .ct, 0x7FFE7, BitVec.ofNat 19 (W + 0x1DE04), none⟩ k T = true ↔
      ∃ c, Reg.mapped .reference k (.startBd c) = true ∧ T.toNat = W + (Reg.startBd c).off (Params.reference.layout k) :=
  selects_perChannel hW (by decide) (fun _ => reference_mapped ..) fun _ => reference_off ..

theorem selects_status {m : String} {k : TileKind} {T : BitVec 19} {W : Nat} (hW : W = 0x40000 ∨ W = 0) :
    Row.selects ⟨m, some .ct, 0x7FFEF, BitVec.ofNat 19 (W + 0x1DF00), none⟩ k T = true ↔
      ∃ i, Reg.mapped .reference k (.status i) = true ∧ T.toNat = W + (Reg.status i).off (Params.reference.layout k) := by
  rw [selects_unbounded 5 4 (by decide) (by decide) (by rw [BitVec.toNat_ofNat]; omega), kind_column]
  simp only [reference_mapped, reference_off, BitVec.toNat_ofNat]
  constructor
  · rintro ⟨rfl, hhi, hlo⟩
    exact ⟨⟨T.toNat % 2 ^ 5 / 16, by omega⟩, rfl, by simp only; omega⟩
  · rintro ⟨i, rfl, hT⟩
    exact ⟨rfl, by omega, by omega⟩

/-- The rows of a register that each port of a direction has, 4 bytes apart. -/
theorem selects_perPort {m : String} {k : TileKind} {T : BitVec 19} {W base : Nat} (hW : W = 0x40000 ∨ W = 0)
    (hbase : base < 2 ^ 18 ∧ base % 2 ^ 8 = 0) {count : TileKind → Nat} (hcount : count k ≤ 2 ^ 6) {reg : Fin 128 → Reg}
    (hmapped : ∀ p, Reg.mapped .reference k (reg p) = true ↔ p.val < count k)
    (hoff : ∀ p, (reg p).off (Params.reference.layout k) = base + 4 * p.val) :
    Row.selects ⟨m, none, 0x7FF03, BitVec.ofNat 19 (W + base), some (count, 2, 6)⟩ k T = true ↔
      ∃ p, Reg.mapped .reference k (reg p) = true ∧ T.toNat = W + (reg p).off (Params.reference.layout k) := by
  rw [selects_bounded 8 2 (by decide) (by decide) (by rw [BitVec.toNat_ofNat]; omega)]
  simp only [hmapped, hoff, BitVec.toNat_ofNat, true_or, true_and]
  constructor
  · rintro ⟨⟨hhi, hlo⟩, hp⟩
    exact ⟨⟨T.toNat / 2 ^ 2 % 2 ^ 6, by omega⟩, hp, by simp only; omega⟩
  · rintro ⟨p, hp, hT⟩
    exact ⟨⟨by omega, by omega⟩, by omega⟩

/-- The reference tiles have few ports (R305). -/
theorem reference_ports_le (k : TileKind) : Params.reference.nMasters k ≤ 2 ^ 5 ∧ Params.reference.nSlaves k ≤ 2 ^ 5 := by
  rw [(reference_ports k).1, (reference_ports k).2]
  cases k <;> decide

theorem selects_mcfg {m : String} {k : TileKind} {T : BitVec 19} {W : Nat} (hW : W = 0x40000 ∨ W = 0) :
    Row.selects ⟨m, none, 0x7FF03, BitVec.ofNat 19 (W + 0x3F000), some (Params.reference.nMasters, 2, 6)⟩ k T = true ↔
      ∃ x, Reg.mapped .reference k (.mcfg x) = true ∧ T.toNat = W + (Reg.mcfg x).off (Params.reference.layout k) :=
  selects_perPort hW (by decide) ((reference_ports_le k).1.trans (by decide)) (fun _ => decide_eq_true_iff)
    fun _ => reference_off ..

theorem selects_scfg {m : String} {k : TileKind} {T : BitVec 19} {W : Nat} (hW : W = 0x40000 ∨ W = 0) :
    Row.selects ⟨m, none, 0x7FF03, BitVec.ofNat 19 (W + 0x3F100), some (Params.reference.nSlaves, 2, 6)⟩ k T = true ↔
      ∃ p, Reg.mapped .reference k (.scfg p) = true ∧ T.toNat = W + (Reg.scfg p).off (Params.reference.layout k) :=
  selects_perPort hW (by decide) ((reference_ports_le k).2.trans (by decide)) (fun _ => decide_eq_true_iff)
    fun _ => reference_off ..

theorem selects_slot {m : String} {k : TileKind} {T : BitVec 19} {W : Nat} (hW : W = 0x40000 ∨ W = 0) :
    Row.selects ⟨m, none, 0x7FE03, BitVec.ofNat 19 (W + 0x3F200), some (Params.reference.nSlaves, 4, 5)⟩ k T = true ↔
      ∃ p j, Reg.mapped .reference k (.slot p j) = true ∧ T.toNat = W + (Reg.slot p j).off (Params.reference.layout k) := by
  have hports := (reference_ports_le k).2
  rw [selects_bounded 9 2 (by decide) (by decide) (by rw [BitVec.toNat_ofNat]; omega)]
  simp only [Reg.mapped, decide_eq_true_eq, reference_off, BitVec.toNat_ofNat, true_or, true_and]
  constructor
  · rintro ⟨⟨hhi, hlo⟩, hp⟩
    exact ⟨⟨T.toNat / 2 ^ 4 % 2 ^ 5, by omega⟩, ⟨T.toNat / 4 % 4, by omega⟩, hp, by simp only; omega⟩
  · rintro ⟨p, j, hp, hT⟩
    exact ⟨⟨by omega, by omega⟩, by omega⟩

/-- The lock-request regions stand one after another (R103). -/
theorem reference_lockRegion (k : TileKind) (l : LockIx) (op : Nat) :
    lockRegionOff (Params.reference.layout k) l op = (Params.reference.layout k).lockBase + 0x80 * l.val + op := by
  cases k <;> rfl

/-- The regions of the 16 locks fill an aligned block of the register space (R103). -/
theorem reference_lockBase (k : TileKind) :
    (Params.reference.layout k).lockBase % 2 ^ 11 = 0 ∧ (Params.reference.layout k).lockBase + 2 ^ 11 ≤ 2 ^ 18 := by
  cases k <;> decide

theorem reference_lockOp_lt (k : TileKind) (a : LockKind) : lockOp (Params.reference.layout k) a < 0x80 :=
  lt_of_lt_of_eq (reference_isMap.lockOps k a).1 (by cases k <;> rfl)

/-- The row of a lock request on tiles of a kind. -/
theorem selects_request {m : String} {k kd : TileKind} {T : BitVec 19} (a : LockKind) :
    Row.selects ⟨m, some kd, 0x7F87F,
        BitVec.ofNat 19 ((Params.reference.layout kd).lockBase + lockOp (Params.reference.layout kd) a), none⟩ k T = true ↔
      kd = k ∧ ∃ l, T.toNat = lockOff (Params.reference.layout k) l a := by
  have hop := reference_lockOp_lt kd a
  obtain ⟨hmod, hle⟩ := reference_lockBase kd
  rw [selects_unbounded 11 7 (by decide) (by decide) (by rw [BitVec.toNat_ofNat]; omega), kind_column, BitVec.toNat_ofNat]
  simp only [lockOff, reference_lockRegion]
  constructor
  · rintro ⟨rfl, hhi, hlo⟩
    exact ⟨rfl, ⟨T.toNat % 2 ^ 11 / 2 ^ 7, by omega⟩, by simp only; omega⟩
  · rintro ⟨rfl, l, hT⟩
    exact ⟨rfl, by omega, by omega⟩

/-- The row of the writes in the lock-request region of tiles of a kind. -/
theorem selects_region {m : String} {k kd : TileKind} {T : BitVec 19} :
    Row.selects ⟨m, some kd, 0x7F800, BitVec.ofNat 19 (0x40000 + (Params.reference.layout kd).lockBase), none⟩ k T = true ↔
      kd = k ∧ ∃ l op, Reg.mapped .reference k (.lock l op) = true
        ∧ T.toNat = 0x40000 + (Reg.lock l op).off (Params.reference.layout k) := by
  obtain ⟨hmod, hle⟩ := reference_lockBase kd
  rw [selects_unbounded 11 0 (by decide) (by decide) (by rw [BitVec.toNat_ofNat]; omega), kind_column, BitVec.toNat_ofNat]
  simp only [reference_mapped, Reg.off, reference_lockRegion]
  constructor
  · rintro ⟨rfl, hhi, -⟩
    exact ⟨rfl, ⟨T.toNat % 2 ^ 11 / 2 ^ 7, by omega⟩, T.toNat % 2 ^ 7, by omega, by simp only; omega⟩
  · rintro ⟨rfl, l, op, hop, hT⟩
    exact ⟨rfl, by omega, by omega⟩

/-! ### Words and registers -/

theorem rawOfWord_write {o T : Nat} (ho : o < 2 ^ 18) (hT : T = 0x40000 + o) (t : TileId) (v : Word) :
    rawOfWord 18 t T v = .bus t 32 true o v := by
  rw [rawOfWord, decide_eq_true (by omega), show T % 2 ^ 18 = o by omega]

theorem rawOfWord_read {o T : Nat} (ho : o < 2 ^ 18) (hT : T = 0 + o) (t : TileId) (v : Word) :
    rawOfWord 18 t T v = .bus t 32 false o v := by
  rw [rawOfWord, decide_eq_false (by omega), show T % 2 ^ 18 = o by omega]

section
variable {kind : TileId → TileKind} {t : TileId} {T : Nat}

/-- The word of a write to a register decodes to the register's write row. -/
theorem decode_word_write {r : Reg} (v : Word) (h4 : T % 4 = 0) (hm : r.mapped .reference (kind t) = true)
    (hT : T = 0x40000 + r.off (Params.reference.layout (kind t))) :
    decode .reference kind (rawOfWord 18 t T v) = .ok (writeRow (kind t) t v r) := by
  rw [rawOfWord_write (reference_isMap.inside _ r hm) hT]
  exact decode_row reference_isMap hm (by omega) rfl

/-- The word of a read of a register decodes to the register's read row. -/
theorem decode_word_read {r : Reg} {i : Instr} (v : Word) (h4 : T % 4 = 0) (hm : r.mapped .reference (kind t) = true)
    (hT : T = 0 + r.off (Params.reference.layout (kind t)))
    (hrow : readRow (Params.reference.layout (kind t)) (kind t) t r = some i) :
    decode .reference kind (rawOfWord 18 t T v) = .ok i := by
  rw [rawOfWord_read (reference_isMap.inside _ r hm) hT]
  exact decode_row reference_isMap hm (by omega) hrow

/-- The word of a lock request decodes to the request's row of the tile's kind. -/
theorem decode_word_request {l : LockIx} {a : LockKind} (v : Word) (hT : T = lockOff (Params.reference.layout (kind t)) l a) :
    decode .reference kind (rawOfWord 18 t T v)
      = .ok (requestRow t l a (kind t)) := by
  rw [rawOfWord_read (Laws.EncodeAligned.request reference_isMap (kind t) l a).1 (hT.trans (Nat.zero_add _).symm)]
  exact decode_lockRead reference_isMap kind t l a v

end

/-! ### Rows and instructions -/

/-- Every row of the table decodes the words it selects to an instruction of its mnemonic. -/
theorem decode_of_selects {kind : TileId → TileKind} {t : TileId} {T : BitVec 19} (v : Word) (h4 : T.toNat % 4 = 0) :
    ∀ r ∈ tableRows, r.selects (kind t) T = true →
      ∃ i, decode .reference kind (rawOfWord 18 t T.toNat v) = .ok i ∧ i.mnemonic = r.mnemonic := by
  have written {r : Reg} {m : String} (hm : r.mapped .reference (kind t) = true)
      (hT : T.toNat = 0x40000 + r.off (Params.reference.layout (kind t))) (hname : (writeRow (kind t) t v r).mnemonic = m) :
      ∃ i, decode .reference kind (rawOfWord 18 t T.toNat v) = .ok i ∧ i.mnemonic = m :=
    ⟨_, decode_word_write v h4 hm hT, hname⟩
  have read {r : Reg} {i : Instr} {m : String} (hm : r.mapped .reference (kind t) = true)
      (hT : T.toNat = 0 + r.off (Params.reference.layout (kind t)))
      (hrow : readRow (Params.reference.layout (kind t)) (kind t) t r = some i) (hname : i.mnemonic = m) :
      ∃ i, decode .reference kind (rawOfWord 18 t T.toNat v) = .ok i ∧ i.mnemonic = m :=
    ⟨i, decode_word_read v h4 hm hT hrow, hname⟩
  have requested {k : TileKind} {a : LockKind} {m : String}
      (h : k = kind t ∧ ∃ l, T.toNat = lockOff (Params.reference.layout (kind t)) l a)
      (hname : ∀ l, (requestRow t l a k).mnemonic = m) :
      ∃ i, decode .reference kind (rawOfWord 18 t T.toNat v) = .ok i ∧ i.mnemonic = m := by
    obtain ⟨rfl, l, hT⟩ := h
    exact ⟨_, decode_word_request v hT, hname l⟩
  simp only [tableRows, List.forall_mem_cons]
  refine ⟨?dmWr, ?dmRd, ?bdWr, ?bdRd, ?ctrlWr, ?ctrlRd, ?startBdWr, ?startBdRd, ?statusRd, ?statusWr, ?acqNv, ?acqV0, ?acqV1,
    ?relNv, ?relV0, ?relV1, ?lockWr, ?acqNvBt, ?acqV0Bt, ?acqV1Bt, ?relNvBt, ?relV0Bt, ?relV1Bt, ?lockWrBt, ?mcfgWr, ?mcfgRd,
    ?scfgWr, ?scfgRd, ?slotWr, ?slotRd, nofun⟩ <;> intro hs
  case dmWr => obtain ⟨_, hm, hT⟩ := (selects_dm (.inl rfl)).1 hs; exact written hm hT rfl
  case dmRd => obtain ⟨_, hm, hT⟩ := (selects_dm (.inr rfl)).1 hs; exact read hm hT rfl rfl
  case bdWr => obtain ⟨_, _, hm, hT⟩ := (selects_bd (.inl rfl)).1 hs; exact written hm hT rfl
  case bdRd => obtain ⟨_, _, hm, hT⟩ := (selects_bd (.inr rfl)).1 hs; exact read hm hT rfl rfl
  case ctrlWr => obtain ⟨_, hm, hT⟩ := (selects_ctrl (.inl rfl)).1 hs; exact written hm hT rfl
  case ctrlRd => obtain ⟨_, hm, hT⟩ := (selects_ctrl (.inr rfl)).1 hs; exact read hm hT rfl rfl
  case startBdWr => obtain ⟨_, hm, hT⟩ := (selects_startBd (.inl rfl)).1 hs; exact written hm hT rfl
  case startBdRd => obtain ⟨_, hm, hT⟩ := (selects_startBd (.inr rfl)).1 hs; exact read hm hT rfl rfl
  case statusWr => obtain ⟨_, hm, hT⟩ := (selects_status (.inl rfl)).1 hs; exact written hm hT rfl
  case statusRd => obtain ⟨_, hm, hT⟩ := (selects_status (.inr rfl)).1 hs; exact read hm hT rfl rfl
  case mcfgWr => obtain ⟨_, hm, hT⟩ := (selects_mcfg (.inl rfl)).1 hs; exact written hm hT rfl
  case mcfgRd => obtain ⟨_, hm, hT⟩ := (selects_mcfg (.inr rfl)).1 hs; exact read hm hT rfl rfl
  case scfgWr => obtain ⟨_, hm, hT⟩ := (selects_scfg (.inl rfl)).1 hs; exact written hm hT rfl
  case scfgRd => obtain ⟨_, hm, hT⟩ := (selects_scfg (.inr rfl)).1 hs; exact read hm hT rfl rfl
  case slotWr => obtain ⟨_, _, hm, hT⟩ := (selects_slot (.inl rfl)).1 hs; exact written hm hT rfl
  case slotRd => obtain ⟨_, _, hm, hT⟩ := (selects_slot (.inr rfl)).1 hs; exact read hm hT rfl rfl
  case acqNv => exact requested ((selects_request .acqNV).1 hs) fun _ => rfl
  case acqV0 => exact requested ((selects_request (.acqV false)).1 hs) fun _ => rfl
  case acqV1 => exact requested ((selects_request (.acqV true)).1 hs) fun _ => rfl
  case relNv => exact requested ((selects_request .relNV).1 hs) fun _ => rfl
  case relV0 => exact requested ((selects_request (.relV false)).1 hs) fun _ => rfl
  case relV1 => exact requested ((selects_request (.relV true)).1 hs) fun _ => rfl
  case lockWr => obtain ⟨hk, _, _, hm, hT⟩ := selects_region.1 hs; exact written hm hT (by rw [← hk]; rfl)
  case acqNvBt => exact requested ((selects_request .acqNV).1 hs) fun _ => rfl
  case acqV0Bt => exact requested ((selects_request (.acqV false)).1 hs) fun _ => rfl
  case acqV1Bt => exact requested ((selects_request (.acqV true)).1 hs) fun _ => rfl
  case relNvBt => exact requested ((selects_request .relNV).1 hs) fun _ => rfl
  case relV0Bt => exact requested ((selects_request (.relV false)).1 hs) fun _ => rfl
  case relV1Bt => exact requested ((selects_request (.relV true)).1 hs) fun _ => rfl
  case lockWrBt => obtain ⟨hk, _, _, hm, hT⟩ := selects_region.1 hs; exact written hm hT (by rw [← hk]; rfl)

/-- The row of a mnemonic, where it selects a word, is a row of the table that does. -/
theorem exists_row {k : TileKind} {T : BitVec 19} {m : String} {r : Row} (hr : tableRows.find? (·.mnemonic == m) = some r)
    (hs : r.selects k T = true) : ∃ x ∈ tableRows, x.selects k T = true ∧ x.mnemonic = m :=
  ⟨r, List.mem_of_find?_eq_some hr, hs, by simpa using List.find?_some hr⟩

/-- The word of a write to a register is selected by the register's write row. -/
theorem exists_row_write {k : TileKind} (t : TileId) (v : Word) {T : BitVec 19} {r : Reg} (hm : r.mapped .reference k = true)
    (hT : T.toNat = 0x40000 + r.off (Params.reference.layout k)) :
    ∃ x ∈ tableRows, x.selects k T = true ∧ x.mnemonic = (writeRow k t v r).mnemonic := by
  cases r with
  | dm wa => exact exists_row rfl ((selects_dm (.inl rfl)).2 ⟨wa, hm, hT⟩)
  | bd n j => exact exists_row rfl ((selects_bd (.inl rfl)).2 ⟨n, j, hm, hT⟩)
  | ctrl c => exact exists_row rfl ((selects_ctrl (.inl rfl)).2 ⟨c, hm, hT⟩)
  | startBd c => exact exists_row rfl ((selects_startBd (.inl rfl)).2 ⟨c, hm, hT⟩)
  | status i => exact exists_row rfl ((selects_status (.inl rfl)).2 ⟨i, hm, hT⟩)
  | lock l op => cases k <;> exact exists_row rfl (selects_region.2 ⟨rfl, l, op, hm, hT⟩)
  | mcfg m => exact exists_row rfl ((selects_mcfg (.inl rfl)).2 ⟨m, hm, hT⟩)
  | scfg p => exact exists_row rfl ((selects_scfg (.inl rfl)).2 ⟨p, hm, hT⟩)
  | slot p j => exact exists_row rfl ((selects_slot (.inl rfl)).2 ⟨p, j, hm, hT⟩)

/-- The word of a lock request is selected by the row of the request on that kind of tile. -/
theorem exists_row_request {k : TileKind} (t : TileId) {T : BitVec 19} {l : LockIx} {a : LockKind}
    (hT : T.toNat = lockOff (Params.reference.layout k) l a) :
    ∃ x ∈ tableRows, x.selects k T = true ∧ x.mnemonic = (requestRow t l a k).mnemonic := by
  cases k <;> rcases a with _ | (_ | _) | _ | (_ | _) <;> exact exists_row rfl ((selects_request _).2 ⟨rfl, l, hT⟩)

/-- The word of a read that has a row is selected by that row. -/
theorem exists_row_read {k : TileKind} {t : TileId} {T : BitVec 19} {r : Reg} {i : Instr} (hm : r.mapped .reference k = true)
    (hT : T.toNat = 0 + r.off (Params.reference.layout k)) (hrow : readRow (Params.reference.layout k) k t r = some i) :
    ∃ x ∈ tableRows, x.selects k T = true ∧ x.mnemonic = i.mnemonic := by
  cases r with
  | dm wa => cases hrow; exact exists_row rfl ((selects_dm (.inr rfl)).2 ⟨wa, hm, hT⟩)
  | bd n j => cases hrow; exact exists_row rfl ((selects_bd (.inr rfl)).2 ⟨n, j, hm, hT⟩)
  | ctrl c => cases hrow; exact exists_row rfl ((selects_ctrl (.inr rfl)).2 ⟨c, hm, hT⟩)
  | startBd c => cases hrow; exact exists_row rfl ((selects_startBd (.inr rfl)).2 ⟨c, hm, hT⟩)
  | status i => cases hrow; exact exists_row rfl ((selects_status (.inr rfl)).2 ⟨i, hm, hT⟩)
  | lock l op =>
    obtain ⟨a, rfl⟩ : ∃ a, lockOp (Params.reference.layout k) a = op := by
      obtain ⟨a, ha, -⟩ := Option.map_eq_some_iff.1 hrow
      exact ⟨a, by simpa using List.find?_some ha⟩
    rw [readRow_request reference_isMap] at hrow
    cases hrow
    exact exists_row_request t (hT.trans (Nat.zero_add _))
  | mcfg m => cases hrow; exact exists_row rfl ((selects_mcfg (.inr rfl)).2 ⟨m, hm, hT⟩)
  | scfg p => cases hrow; exact exists_row rfl ((selects_scfg (.inr rfl)).2 ⟨p, hm, hT⟩)
  | slot p j => cases hrow; exact exists_row rfl ((selects_slot (.inr rfl)).2 ⟨p, j, hm, hT⟩)

/-- A word that decodes is selected by a row of the instruction's mnemonic. -/
theorem exists_row_of_decode {kind : TileId → TileKind} {t : TileId} {T : BitVec 19} {v : Word} {i : Instr}
    (h : decode .reference kind (rawOfWord 18 t T.toNat v) = .ok i) :
    ∃ r ∈ tableRows, r.selects (kind t) T = true ∧ r.mnemonic = i.mnemonic := by
  obtain ⟨-, r, hr, hrow⟩ := decode_bus_ok h
  obtain ⟨hm, hoff⟩ := regAt_some hr
  by_cases hw : 2 ^ 18 ≤ T.toNat
  · rw [decide_eq_true hw, if_pos rfl] at hrow
    cases hrow
    exact exists_row_write t v hm (by omega)
  · rw [decide_eq_false hw, if_neg nofun] at hrow
    exact exists_row_read hm (by omega) hrow

/-- An aligned word that decodes to no instruction is unmapped (R79). -/
theorem decode_word_unmapped {kind : TileId → TileKind} {t : TileId} {T : Nat} {v : Word} (h4 : T % 4 = 0)
    (hnone : ∀ i, decode .reference kind (rawOfWord 18 t T v) ≠ .ok i) :
    decode .reference kind (rawOfWord 18 t T v) = .error (.unmapped (T % 2 ^ 18)) := by
  have h4' : T % 2 ^ 18 % 4 = 0 := by omega
  cases hd : decodeOff .reference (kind t) t (decide (2 ^ 18 ≤ T)) (T % 2 ^ 18) v with
  | some i =>
    refine absurd ?_ (hnone i)
    simp only [rawOfWord, decode, hd, h4', ne_eq, not_true_eq_false, or_self, if_false]
  | none => simp only [rawOfWord, decode, hd, h4', ne_eq, not_true_eq_false, or_self, if_false]

/-- Settles O3: a word that decodes is one at a register's offset, which the register's row selects, and two rows that select
one word name the one instruction it decodes to. -/
theorem decoderSelectsRows : Obligations.DecoderSelectsRows := by
  intro q kind t T v hq raw
  have hraw : raw = rawOfWord 18 t T.toNat v := by
    obtain ⟨-, -, hw, -⟩ := hq
    simp only [raw, hw]
  rw [hraw, Machine.decode_of_referenceMap hq]
  refine ⟨fun h4 => ⟨fun i => exists_row_of_decode, decode_of_selects v h4, ?one, ?none⟩, fun h4 => ?misaligned,
    fun width w off h => decode_bus_accessWidth (.inl h)⟩
  case one =>
    intro r hr r' hr' hs hs'
    obtain ⟨i, hi, hname⟩ := decode_of_selects v h4 r hr hs
    obtain ⟨i', hi', hname'⟩ := decode_of_selects v h4 r' hr' hs'
    cases hi.symm.trans hi'
    exact hname.symm.trans hname'
  case none =>
    intro hnone
    refine decode_word_unmapped h4 fun i hi => ?_
    obtain ⟨r, hr, hs, -⟩ := exists_row_of_decode hi
    exact absurd hs (by rw [hnone r hr]; nofun)
  case misaligned => exact decode_bus_accessWidth (.inr (by omega))

end Sys2Proof
end

section
/-! PROOF. The lock-request reads (O28, O29) and the poll (O45).  The twelve rows of lock requests are one, `requestRow`: how it
is encoded and run is said once, for both tile kinds and every request, and an acquire or a release is then the lock step of
R151.  An attempt of a poll is a host read followed by `afterTry`. -/

namespace Sys2Proof.Machine

/-! ### Lock-request reads (R151 to R160) -/

/-- The row of a request on the tile's kind is a read at the request's offset (R103, R164). -/
theorem encode_requestRow (s : State) (t : TileId) (l : LockIx) (q : LockKind) :
    encode s.params s.kinds (requestRow t l q (s.kind t)) = .bus t 32 false (lockOff (s.layout t) l q) 0 := by
  cases hk : s.kind t with
  | ct => exact (lockRdCt_wf_encode (kind := s.kinds) hk l q).2
  | bt => exact (lockRdBt_wf_encode (kind := s.kinds) hk l q).2

/-- The row of a request on the tile's kind makes that request (R152). -/
theorem exec_requestRow (s : State) (t : TileId) (l : LockIx) (q : LockKind) :
    exec (requestRow t l q (s.kind t)) s = .next (s.hostLock t l q) := by
  cases hk : s.kind t with
  | ct => exact exec_of_kind hk (exec_lockRdCt t l q s)
  | bt => exact exec_of_kind hk (exec_lockRdBt t l q s)

/-- The requests of lock `l` in `L_REF` (R103): both kinds place them alike from the base of their lock region. -/
theorem lockOff_reference (k : TileKind) (l : LockIx) (q : LockKind) :
    lockOff (.reference k) l q = (if k = .ct then 0x1E000 else 0x14000) + 0x80 * l.val + lockOp (.reference .ct) q := by
  cases k <;> rfl

/-- An acquire row of the tile's kind is the row of the request that its value selects (R153 to R155). -/
theorem acquire_row {k : TileKind} {t : TileId} {l : LockIx} {i : Instr} {v : Option Bool} {q : LockKind}
    (h : (k = .ct ∧ ((i = .lockAcqNvRd t l ∧ v = none ∧ q = .acqNV) ∨ (i = .lockAcqV0Rd t l ∧ v = some false ∧ q = .acqV false)
        ∨ (i = .lockAcqV1Rd t l ∧ v = some true ∧ q = .acqV true)))
      ∨ (k = .bt ∧ ((i = .lockAcqNvRdBt t l ∧ v = none ∧ q = .acqNV)
        ∨ (i = .lockAcqV0RdBt t l ∧ v = some false ∧ q = .acqV false) ∨ (i = .lockAcqV1RdBt t l ∧ v = some true ∧ q = .acqV true)))) :
    i = requestRow t l q k ∧ q = v.elim .acqNV .acqV := by
  rcases h with ⟨rfl, h⟩ | ⟨rfl, h⟩ <;>
    rcases h with ⟨rfl, rfl, rfl⟩ | ⟨rfl, rfl, rfl⟩ | ⟨rfl, rfl, rfl⟩ <;> exact ⟨rfl, rfl⟩

/-- A release row of the tile's kind is the row of the request that its value selects (R157 to R159). -/
theorem release_row {k : TileKind} {t : TileId} {l : LockIx} {i : Instr} {v : Option Bool} {q : LockKind}
    (h : (k = .ct ∧ ((i = .lockRelNvRd t l ∧ v = none ∧ q = .relNV) ∨ (i = .lockRelV0Rd t l ∧ v = some false ∧ q = .relV false)
        ∨ (i = .lockRelV1Rd t l ∧ v = some true ∧ q = .relV true)))
      ∨ (k = .bt ∧ ((i = .lockRelNvRdBt t l ∧ v = none ∧ q = .relNV)
        ∨ (i = .lockRelV0RdBt t l ∧ v = some false ∧ q = .relV false) ∨ (i = .lockRelV1RdBt t l ∧ v = some true ∧ q = .relV true)))) :
    i = requestRow t l q k ∧ q = v.elim .relNV .relV := by
  rcases h with ⟨rfl, h⟩ | ⟨rfl, h⟩ <;>
    rcases h with ⟨rfl, rfl, rfl⟩ | ⟨rfl, rfl, rfl⟩ | ⟨rfl, rfl, rfl⟩ <;> exact ⟨rfl, rfl⟩

/-- A request whose outcome is `ok` and the lock `L'` leaves that lock, and returns the success bit alone or 0 (R133, R151). -/
theorem hostLock_outcome {s : State} {t : TileId} {l : LockIx} {q : LockKind} {ok : Bool} {L' : Lock}
    (h : lockStep s.params.relFree (Config.freeBit s.draws) (s.tile t).lock[l] q = (ok, L')) :
    ((s.hostLock t l q).tile t).lock[l] = L'
      ∧ (s.hostLock t l q).host.readData = if ok then 1#32 <<< lockOkBit s.params (s.kind t) q else 0 := by
  obtain ⟨-, -, -, -, -, hlock, hread⟩ := hostLock_facts s t l q
  exact ⟨by rw [hlock, h], by rw [hread, h, lockWord_eq]⟩

/-- Settles O28: the six rows are one request, whose lock step is `lockStep_acquire`. -/
theorem lockAcquireReads : Obligations.LockAcquireReads := by
  intro s t l i v q hrow
  obtain ⟨rfl, rfl⟩ := acquire_row hrow
  obtain ⟨hframe, hmem, -, htile, hother, -, -⟩ := hostLock_facts s t l (v.elim .acqNV .acqV)
  have hstep := lockStep_acquire s.params.relFree (Config.freeBit s.draws) (s.tile t).lock[l] v
  refine ⟨⟨encode_requestRow s t l _, fun hL => ?offset⟩, _, exec_requestRow s t l _, hframe, hmem, htile, hother,
    fun hfree => ?taken, fun hbusy => ?refused⟩
  case offset =>
    rw [hL, lockOff_reference]
    rcases v with _ | _ | _ <;> rfl
  case taken => exact hostLock_outcome (hstep.trans (if_pos hfree))
  case refused => exact hostLock_outcome (hstep.trans (if_neg hbusy))

/-- Settles O29: the six rows are one request, which frees a held lock and does to a free one what `P_REL_FREE` says. -/
theorem lockReleaseReads : Obligations.LockReleaseReads := by
  intro s t l i v q hrow
  obtain ⟨rfl, rfl⟩ := release_row hrow
  obtain ⟨hframe, hmem, -, htile, hother, -, -⟩ := hostLock_facts s t l (v.elim .relNV .relV)
  refine ⟨⟨encode_requestRow s t l _, fun hL => ?offset⟩, _, exec_requestRow s t l _, hframe, hmem, htile, hother,
    fun hok => ?freed, fun ⟨hheld, hfail⟩ => ?refused⟩
  case offset =>
    rw [hL, lockOff_reference]
    rcases v with _ | _ | _ <;> rfl
  case freed => exact hostLock_outcome (lockStep_release_ok _ _ _ v hok)
  case refused => exact hostLock_outcome (lockStep_release_fail _ _ _ v hheld hfail)

/-! ### Polls (R163, R168) -/

/-- A turn of the host runs the first operation of its program, which is taken off (R81). -/
theorem hostTurn_of_cons {s : State} {op : HostOp} {q : List HostOp} (h : s.host.queue = op :: q) :
    hostTurn s = runOp op (s.setQueue q) := by
  simp only [hostTurn, h]

/-- An attempt of a poll is a host read at its offset and what follows the word read (R163). -/
theorem hostTurn_pollTry {s s1 : State} {t : TileId} {off mask expected more : Nat} {q : List HostOp}
    (hq : s.host.queue = .pollTry t off mask expected more :: q)
    (hread : hostTurn (s.setQueue (.bus t 32 false off 0 :: q)) = .next s1) :
    hostTurn s = .next (afterTry t off mask expected more s1) := by
  have hrun : runRaw (.bus t 32 false off 0) (s.setQueue q) = .next s1 := hread
  rw [hostTurn_of_cons hq]
  simp only [runOp, hrun]

/-- A poll whose read ended the execution does nothing more (R372; log 30). -/
theorem afterTry_ended {s : State} (he : s.ended = true) (t : TileId) (off mask expected more : Nat) :
    afterTry t off mask expected more s = s := by
  simp only [afterTry, he, if_true]

/-- Settles O45: a poll queues its first attempt, and an attempt ends in one of the four cases of `afterTry`. -/
theorem pollAttempts : Obligations.PollAttempts := by
  refine ⟨fun s t off mask expected timeout => beginPoll_facts rfl, fun s s1 t off mask expected more q hq hread => ?_⟩
  rw [hostTurn_pollTry hq hread]
  refine ⟨fun he => ?ended, fun he hseen => ?success, fun he hseen => ⟨fun hm => ?last, fun n hm => ?again⟩⟩
  case ended => rw [afterTry_ended he]
  case success => rw [afterTry_success he hseen]; rfl
  case last => subst hm; rw [afterTry_last he hseen]; rfl
  case again => subst hm; rw [afterTry_again he hseen]; rfl

end Sys2Proof.Machine
end

section
/-! PROOF. The setters of the BD mirror and the clears (O47 to O50).  Each is a `setter`: its index check, a list of checks and a
change of one mirror BD; the three things it can answer are said once, and each command then needs only which check fails
first and what its change stores. -/

namespace Sys2Proof.Machine

/-! ### Checks (R193, R371, R378) -/

/-- A check that holds gives way to those after it (R378). -/
theorem firstErr_pass {ok : Bool} {x : ErrReason} {cs : List (Bool × ErrReason)} {r : Option ErrReason} (h : ok = true)
    (hcs : firstErr cs = r) : firstErr ((ok, x) :: cs) = r := (if_pos h).trans hcs

/-- A check that fails gives its reason (R378). -/
theorem firstErr_fail {ok : Bool} {x : ErrReason} {cs : List (Bool × ErrReason)} (h : ¬ ok = true) :
    firstErr ((ok, x) :: cs) = some x := if_neg h

/-- Checks that share a reason, not all of which hold, fail with it (R378). -/
theorem firstErr_shared {cs : List (Bool × ErrReason)} {r : ErrReason} (hr : ∀ c ∈ cs, c.2 = r)
    (hf : ¬ ∀ c ∈ cs, c.1 = true) : firstErr cs = some r := by
  rcases h : firstErr cs with _ | x
  · exact absurd (firstErr_none.1 h) hf
  · obtain ⟨pre, post, rfl, -⟩ := firstErr_some h
    exact congrArg some (hr (false, x) (by simp))

/-- A command returns the reason of its first failing check and changes nothing else (R371). -/
theorem checked_err {cs : List (Bool × ErrReason)} {r : ErrReason} (h : firstErr cs = some r) (s k : State) :
    checked cs s k = s.ret (.err r) := by simp only [checked, h]

/-- A command whose checks all hold does its work (R371). -/
theorem checked_ok {cs : List (Bool × ErrReason)} (h : firstErr cs = none) (s k : State) : checked cs s k = k := by
  simp only [checked, h]

/-- The index check of the BD commands (R193). -/
theorem bdCheck_iff {n : Nat} : (bdCheck n).1 = true ↔ n < 16 := decide_eq_true_iff

theorem firstErr_badBdIndex {n : Nat} (hn : 16 ≤ n) (cs : List (Bool × ErrReason)) :
    firstErr (bdCheck n :: cs) = some .badBdIndex := firstErr_fail fun h => Nat.not_lt.2 hn (bdCheck_iff.1 h)

theorem firstErr_bdIndex {n : Nat} (hn : n < 16) (cs : List (Bool × ErrReason)) :
    firstErr (bdCheck n :: cs) = firstErr cs := firstErr_pass (bdCheck_iff.2 hn) rfl

theorem bdIx_val (n : BdIx) : bdIx n.val = n := Fin.ext (Nat.mod_eq_of_lt n.isLt)

theorem State.modBd_val (s : State) (e : TileId) (n : BdIx) (f : MirrorBd → MirrorBd) :
    s.modBd e n.val f = s.setEngine e { s.engine e with bd := (s.engine e).bd.set n (f (s.engine e).bd[n]) } := by
  simp only [State.modBd, bdIx_val]

/-! ### What a setter answers (R193) -/

section

variable {i : Instr} {s : State} {e : TileId} {k : Nat} {cs : List (Bool × ErrReason)} {f : MirrorBd → MirrorBd}

/-- The index is checked first (R193). -/
theorem exec_setter_badBdIndex (hk : s.kind e = .ct) (hn : 16 ≤ k) (hx : exec i s = .next (setter e k cs f s)) :
    exec i s = .next (s.ret (.err .badBdIndex)) := by
  rw [hx, setter, onEngine_pos hk, checked_err (firstErr_badBdIndex hn cs)]

/-- With a legal index the first failing check of the command's own gives the reason (R378). -/
theorem exec_setter_err {r : ErrReason} (hk : s.kind e = .ct) (hn : k < 16) (hc : firstErr cs = some r)
    (hx : exec i s = .next (setter e k cs f s)) : exec i s = .next (s.ret (.err r)) := by
  rw [hx, setter, onEngine_pos hk, checked_err ((firstErr_bdIndex hn cs).trans hc)]

/-- With every check met the one mirror BD is changed, and the command returns Ok (R193). -/
theorem exec_setter_stores {n : BdIx} {b' : MirrorBd} (hk : s.kind e = .ct) (hn : n.val = k) (hc : firstErr cs = none)
    (hx : exec i s = .next (setter e k cs f s)) (hf : f (s.engine e).bd[n] = b') :
    exec i s = .next { s with host := { s.host with
      eng := s.host.eng.set e (some { s.engine e with bd := (s.engine e).bd.set n b' }), result := some .ok } } := by
  subst hn
  rw [hx, setter, onEngine_pos hk, checked_ok ((firstErr_bdIndex n.isLt cs).trans hc), State.modBd_val, hf]
  rfl

end

/-! ### Arguments -/

theorem isFlag_iff {n : Nat} : isFlag n = true ↔ n < 2 := decide_eq_true_iff

theorem isBdOrSentinel_iff {n : Nat} : isBdOrSentinel n = true ↔ n < 16 ∨ n = 0xFF := by
  simp only [isBdOrSentinel, Bool.or_eq_true, decide_eq_true_eq, beq_iff_eq]

/-- The FIFO mask asks for a multiple of 4 words where a FIFO mode is on, and for nothing else (R197). -/
theorem and_fifoMask_iff {fifo words : Nat} : words &&& fifoMask fifo = 0 ↔ (fifo ≠ 0 → words % 4 = 0) := by
  by_cases h : fifo = 0
  · simp [fifoMask, h]
  · rw [fifoMask, if_neg h, show words &&& 3 = words % 4 from Nat.and_two_pow_sub_one_eq_mod words 2]
    exact ⟨fun hw _ => hw, fun hw => hw h⟩

/-- A setter of a slot changes the fields of the slot its name selects (R194). -/
theorem MirrorBd.modSlot_eq {x : SlotArg} (hx : x ≠ .other) (b : MirrorBd) (f : SlotFields → SlotFields) :
    b.modSlot x f = if x = .a then { b with fields := { b.fields with a := f b.fields.a } }
      else { b with fields := { b.fields with b := f b.fields.b } } := by
  cases x with
  | a => rfl
  | b => rfl
  | other => exact absurd rfl hx

/-! ### The statements -/

/-- Settles O47: the checks of R194 in order, and the slot that `SlotFields.setLock` stores. -/
theorem setLockStores : Obligations.SetLockStores := by
  intro s e k x lockId relEn relVal acqEn acqVal hk i rv av err
  have slot : (x != .other) = true ↔ x ≠ .other := bne_iff_ne
  have lock : decide (lockId < 16) = true ↔ lockId < 16 := decide_eq_true_iff
  have flags : (isFlag relEn && isFlag acqEn) = true ↔ relEn < 2 ∧ acqEn < 2 := by
    rw [Bool.and_eq_true, isFlag_iff, isFlag_iff]
  have values : (rv.isSome && av.isSome) = true ↔ ¬ (rv = none ∨ av = none) := by
    rw [Bool.and_eq_true, Option.isSome_iff_ne_none, Option.isSome_iff_ne_none, not_or]
  refine ⟨fun hn => exec_setter_badBdIndex hk hn rfl, fun hn hx => exec_setter_err hk hn ?slot rfl,
    fun hn hx hl => exec_setter_err hk hn ?lock rfl, fun hn hx hl hf => exec_setter_err hk hn ?flags rfl,
    fun hn hx hl hr ha hv => exec_setter_err hk hn ?values rfl,
    fun n r a hn hx hl hr ha hrv hav => exec_setter_stores hk hn ?checks rfl ?stored⟩
  case slot => exact firstErr_fail fun h => slot.1 h hx
  case lock => exact firstErr_pass (slot.2 hx) (firstErr_fail fun h => Nat.not_lt.2 hl (lock.1 h))
  case flags => exact firstErr_pass (slot.2 hx) (firstErr_pass (lock.2 hl) (firstErr_fail (mt flags.1 hf)))
  case values =>
    exact firstErr_pass (slot.2 hx) (firstErr_pass (lock.2 hl) (firstErr_pass (flags.2 ⟨hr, ha⟩)
      (firstErr_fail fun h => values.1 h hv)))
  case checks =>
    have hv : ¬ (rv = none ∨ av = none) := by rw [hrv, hav]; simp
    exact firstErr_pass (slot.2 hx) (firstErr_pass (lock.2 hl) (firstErr_pass (flags.2 ⟨hr, ha⟩)
      (firstErr_pass (values.2 hv) rfl)))
  case stored =>
    have hr' : (readValArg s.params.noValue relVal).getD none = r := congrArg (Option.getD · none) hrv
    have ha' : (readValArg s.params.noValue acqVal).getD none = a := congrArg (Option.getD · none) hav
    rw [MirrorBd.modSlot_eq hx, hr', ha']
    rfl

/-- Settles O48: the checks of R195, R196, R198 and R199 in order, and what each setter stores. -/
theorem setFieldsStore : Obligations.SetFieldsStore := by
  intro s e k hk err stored
  refine ⟨?set2D, ?setInterleave, ?setNext, ?setPacket⟩
  case set2D =>
    intro axis incr wrap offset i c3 c4
    have known : (axis != .other) = true ↔ axis ≠ .other := bne_iff_ne
    refine ⟨fun hn => exec_setter_badBdIndex hk hn rfl, fun hn ha => exec_setter_err hk hn ?axis rfl,
      fun hn ha hw => exec_setter_err hk hn ?wide rfl, ?stored⟩
    case axis => exact firstErr_fail fun h => known.1 h ha
    case wide => exact firstErr_pass (known.2 ha) (firstErr_shared (by simp) (by simpa [c3, c4] using hw))
    case stored =>
      intro n hn h3 h4 ho b
      have checks : firstErr [(decide (1 ≤ incr ∧ incr ≤ 256), .fieldTooWide),
          (decide (1 ≤ wrap ∧ wrap ≤ 256), .fieldTooWide), (decide (offset < 2 ^ 13), .fieldTooWide)] = none :=
        firstErr_none.2 (by simpa using ⟨h3, h4, ho⟩)
      exact ⟨fun ha => by subst ha; exact exec_setter_stores hk hn checks rfl rfl,
        fun ha => by subst ha; exact exec_setter_stores hk hn checks rfl rfl⟩
  case setInterleave =>
    intro en which count current i
    have known : (which != .other) = true ↔ which ≠ .other := bne_iff_ne
    have mult4 : (count % 4 == 0) = true ↔ count % 4 = 0 := beq_iff_eq
    refine ⟨fun hn => exec_setter_badBdIndex hk hn rfl, fun hn he => exec_setter_err hk hn ?flag rfl,
      fun hn he hw => exec_setter_err hk hn ?slot rfl, fun hn he hw h4 => exec_setter_err hk hn ?count rfl,
      fun hn he hw h4 hf => exec_setter_err hk hn ?wide rfl,
      fun n hn he hw h4 hc hr => exec_setter_stores hk hn ?checks rfl rfl⟩
    case flag => exact firstErr_fail fun h => Nat.not_lt.2 he (isFlag_iff.1 h)
    case slot => exact firstErr_pass (isFlag_iff.2 he) (firstErr_fail fun h => known.1 h hw)
    case count => exact firstErr_pass (isFlag_iff.2 he) (firstErr_pass (known.2 hw) (firstErr_fail (mt mult4.1 h4)))
    case wide =>
      exact firstErr_pass (isFlag_iff.2 he) (firstErr_pass (known.2 hw) (firstErr_pass (mult4.2 h4)
        (firstErr_shared (by simp) (by simpa using hf))))
    case checks =>
      exact firstErr_pass (isFlag_iff.2 he) (firstErr_pass (known.2 hw) (firstErr_pass (mult4.2 h4)
        (firstErr_none.2 (by simpa using ⟨hc, hr⟩))))
  case setNext =>
    intro next i
    refine ⟨fun hn => exec_setter_badBdIndex hk hn rfl, fun hn hb hs => exec_setter_err hk hn ?next rfl,
      fun n hn => ⟨fun hb => exec_setter_stores hk hn ?index rfl ?chained,
        fun hs => exec_setter_stores hk hn ?sentinel rfl ?ended⟩⟩
    case next => exact firstErr_fail (mt isBdOrSentinel_iff.1 (by omega))
    case index => exact firstErr_pass (isBdOrSentinel_iff.2 (.inl hb)) rfl
    case chained =>
      have hne : (next != 0xFF) = true := bne_iff_ne.2 (by omega)
      rw [hne]
    case sentinel => exact firstErr_pass (isBdOrSentinel_iff.2 (.inr hs)) rfl
    case ended => subst hs; rfl
  case setPacket =>
    intro en type id i
    refine ⟨fun hn => exec_setter_badBdIndex hk hn rfl, fun hn he => exec_setter_err hk hn ?flag rfl,
      fun hn he hw => exec_setter_err hk hn ?wide rfl,
      fun n hn he ht hi => exec_setter_stores hk hn ?checks rfl rfl⟩
    case flag => exact firstErr_fail fun h => Nat.not_lt.2 he (isFlag_iff.1 h)
    case wide => exact firstErr_pass (isFlag_iff.2 he) (firstErr_shared (by simp) (by simpa using hw))
    case checks => exact firstErr_pass (isFlag_iff.2 he) (firstErr_none.2 (by simpa using ⟨ht, hi⟩))

/-- Settles O49: the checks of R197 in order, and what the setter stores. -/
theorem setAddrLenModeStores : Obligations.SetAddrLenModeStores := by
  intro s e k baseA baseB len db fifo hk i err c1 c2 c3 c4 c5 c6 c7 c8
  have m2 : decide (fifo < 3) = true ↔ c2 := decide_eq_true_iff.trans (by omega)
  have m3 : (baseA % 4 == 0 && baseB % 4 == 0) = true ↔ c3 := by rw [Bool.and_eq_true, beq_iff_eq, beq_iff_eq]
  have m4 : (len / 4 &&& fifoMask fifo == 0) = true ↔ c4 := beq_iff_eq.trans and_fifoMask_iff
  have m5 : isFlag db = true ↔ c5 := isFlag_iff.trans (by omega)
  have m6 : (decide (baseA / 4 < 2 ^ 13) && decide (baseB / 4 < 2 ^ 13)) = true ↔ c6 := by
    rw [Bool.and_eq_true, decide_eq_true_iff, decide_eq_true_iff]
  have m7 : decide (1 ≤ len / 4) = true ↔ c7 := decide_eq_true_iff
  have m8 : decide (len / 4 - 1 < 2 ^ 13) = true ↔ c8 := decide_eq_true_iff
  refine ⟨fun h1 => exec_setter_badBdIndex hk (Nat.not_lt.1 h1) rfl, fun h1 h2 => exec_setter_err hk h1 ?mode rfl,
    fun h1 h2 h3 => exec_setter_err hk h1 ?aligned rfl, fun h1 h2 h3 h4 => exec_setter_err hk h1 ?fifoLength rfl,
    fun h1 h2 h3 h4 h5 => exec_setter_err hk h1 ?flag rfl, fun h1 h2 h3 h4 h5 h6 => exec_setter_err hk h1 ?baseWidth rfl,
    fun h1 h2 h3 h4 h5 h6 h7 => exec_setter_err hk h1 ?zero rfl,
    fun h1 h2 h3 h4 h5 h6 h7 h8 => exec_setter_err hk h1 ?lengthWidth rfl,
    fun n hn h2 h3 h4 h5 h6 h7 h8 => exec_setter_stores hk hn ?checks rfl rfl⟩
  case mode => exact firstErr_fail (mt m2.1 h2)
  case aligned => exact firstErr_pass (m2.2 h2) (firstErr_fail (mt m3.1 h3))
  case fifoLength => exact firstErr_pass (m2.2 h2) (firstErr_pass (m3.2 h3) (firstErr_fail (mt m4.1 h4)))
  case flag =>
    exact firstErr_pass (m2.2 h2) (firstErr_pass (m3.2 h3) (firstErr_pass (m4.2 h4) (firstErr_fail (mt m5.1 h5))))
  case baseWidth =>
    exact firstErr_pass (m2.2 h2) (firstErr_pass (m3.2 h3) (firstErr_pass (m4.2 h4) (firstErr_pass (m5.2 h5)
      (firstErr_fail (mt m6.1 h6)))))
  case zero =>
    exact firstErr_pass (m2.2 h2) (firstErr_pass (m3.2 h3) (firstErr_pass (m4.2 h4) (firstErr_pass (m5.2 h5)
      (firstErr_pass (m6.2 h6) (firstErr_fail (mt m7.1 h7))))))
  case lengthWidth =>
    exact firstErr_pass (m2.2 h2) (firstErr_pass (m3.2 h3) (firstErr_pass (m4.2 h4) (firstErr_pass (m5.2 h5)
      (firstErr_pass (m6.2 h6) (firstErr_pass (m7.2 h7) (firstErr_fail (mt m8.1 h8)))))))
  case checks =>
    exact firstErr_pass (m2.2 h2) (firstErr_pass (m3.2 h3) (firstErr_pass (m4.2 h4) (firstErr_pass (m5.2 h5)
      (firstErr_pass (m6.2 h6) (firstErr_pass (m7.2 h7) (firstErr_pass (m8.2 h8) rfl))))))

/-- Settles O50: a clear is a setter without checks of its own, and `bd.clearAll` sets all 16. -/
theorem clearsMirror : Obligations.ClearsMirror := by
  unfold Obligations.ClearsMirror
  intro z cleared s e hk
  have hself : ((s.clearBds e).ret .ok).engine e = { s.engine e with bd := .replicate 16 .cleared } :=
    (engine_setEngine s e e _).trans (if_pos rfl)
  refine ⟨fun n => exec_setter_stores hk rfl rfl rfl rfl, fun k hn => exec_setter_badBdIndex hk hn rfl,
    (s.clearBds e).ret .ok, congrArg Host.Outcome.next (onEngine_pos hk), ⟨rfl, fun _ _ => rfl⟩, rfl, rfl,
    fun n => ?cells, by rw [hself], by rw [hself], fun f hf => (engine_setEngine s e f _).trans (if_neg hf.symm)⟩
  case cells => rw [hself]; exact Vector.getElem_replicate _

end Sys2Proof.Machine
end

section
/-! PROOF. The descriptor words of a tile (O23, O24) and the commit that writes them (O52).  BD_WR and BD_RD are said once on a
compute tile; a commit is then a run of host turns that each write one word, by induction on the words still queued. -/

namespace Sys2Proof.Machine

/-! ### Descriptors in use (R191, R269) -/

/-- A descriptor is in use where a walker past its Fetch is on it (R191). -/
theorem Tile.bdInUse_iff {T : Tile} {n : BdIx} : T.bdInUse n = true ↔
    ∃ c : ChIx, (T.walker[c]).phase ≠ .idle ∧ (T.walker[c]).phase ≠ .fetch ∧ (T.walker[c]).cur = n := by
  simp only [Tile.bdInUse, List.any_eq_true, List.mem_finRange, true_and, Bool.and_eq_true, bne_iff_ne, beq_iff_eq, and_assoc]

/-- A host write to descriptor `n` of tile `t` is a fault to be raised (R269). -/
def State.writeFaults (s : State) (t : TileId) (n : BdIx) : Prop :=
  s.params.bdInUse = .fault ∧ ∃ c : ChIx, ((s.tile t).walker[c]).phase ≠ .idle
    ∧ ((s.tile t).walker[c]).phase ≠ .fetch ∧ ((s.tile t).walker[c]).cur = n

theorem writeFaults_iff {s : State} {t : TileId} {n : BdIx} :
    ((s.tile t).bdInUse n && s.params.bdInUse == .fault) = true ↔ s.writeFaults t n := by
  rw [Bool.and_eq_true, beq_iff_eq, Tile.bdInUse_iff, and_comm]; rfl

/-- Nothing is to be raised where the parameter asks for the snapshot, or where no walker executes the descriptor (R269). -/
theorem not_writeFaults {s : State} {t : TileId} {n : BdIx}
    (h : s.params.bdInUse = .snapshot ∨ ∀ c : ChIx, ((s.tile t).walker[c]).phase = .idle
      ∨ ((s.tile t).walker[c]).phase = .fetch ∨ ((s.tile t).walker[c]).cur ≠ n) : ¬ s.writeFaults t n := by
  rintro ⟨hf, c, hi, hfe, hc⟩
  rcases h with h | h
  · rw [h] at hf; cases hf
  · rcases h c with h | h | h
    · exact hi h
    · exact hfe h
    · exact h hc

/-! ### One word (R191, R192) -/

/-- A write that is no fault writes its word. -/
theorem exec_bdWr {s : State} {t : TileId} {n : BdIx} (hk : s.kind t = .ct) (hu : ¬ s.writeFaults t n) (k : BdWordIx) (v : Word) :
    exec (.bdWr t n k v) s = .next (s.modTile t fun T => T.writeBd n k v) :=
  (exec_of_kind hk rfl).trans (congrArg Host.Outcome.next (if_neg (mt writeFaults_iff.1 hu)))

/-- A write that is a fault writes its word too; the fault is the next step's (log 10). -/
theorem exec_bdWr_inUse {s : State} {t : TileId} {n : BdIx} (hk : s.kind t = .ct) (hu : s.writeFaults t n) (k : BdWordIx)
    (v : Word) :
    exec (.bdWr t n k v) s = .next ((s.modTile t fun T => T.writeBd n k v).raiseNext (.bdInUseWrite n)) :=
  (exec_of_kind hk rfl).trans (congrArg Host.Outcome.next (if_pos (writeFaults_iff.2 hu)))

/-- A written word is read back, its reserved bits as R140 says (R192). -/
theorem exec_bdRd {s : State} {t : TileId} {n : BdIx} {k : BdWordIx} (hk : s.kind t = .ct)
    (hw : ((s.tile t).bdw[n][k]).written = true) :
    exec (.bdRd t n k) s = .next (s.hostReadsReg (bdMask (s.layout t).bd k) ((s.tile t).bdw[n][k]).val) :=
  (exec_of_kind hk rfl).trans (congrArg Host.Outcome.next (if_pos hw))

/-- A word never written is a fault (R192). -/
theorem exec_bdRd_unwritten {s : State} {t : TileId} {n : BdIx} {k : BdWordIx} (hk : s.kind t = .ct)
    (hw : ((s.tile t).bdw[n][k]).written = false) :
    exec (.bdRd t n k) s = .next (s.raise (.unwritten (bdOff (s.layout t) n k))) :=
  (exec_of_kind hk rfl).trans (congrArg Host.Outcome.next (if_neg (by rw [hw]; nofun)))

/-- The words of a tile after one is written (R191). -/
theorem Tile.writeBd_cell (T : Tile) (n : BdIx) (k : BdWordIx) (v : Word) (n' : BdIx) (k' : BdWordIx) :
    (T.writeBd n k v).bdw[n'][k'] = if (n', k') = (n, k) then ⟨v, true⟩ else T.bdw[n'][k'] := by
  rw [Tile.writeBd_bdw, getElem_set_fin]
  by_cases hn : n = n'
  · subst hn
    rw [if_pos rfl, getElem_set_fin]
    simp only [Prod.mk.injEq, true_and, eq_comm, RegCell.write]
  · rw [if_neg hn, if_neg fun h => hn (congrArg Prod.fst h).symm]

/-- The descriptor words in `L_REF` (R103, R140). -/
theorem bd_reference {L : Config.Layout} (hL : L = .reference .ct) (n : BdIx) (k : BdWordIx) :
    bdOff L n k = 0x1D000 + 0x20 * n.val + 4 * k.val
      ∧ bdMask L.bd k = [0x03FF1FFF, 0x03FF1FFF, 0xFFFF1FFF, 0xFFFF1FFF, 0x0001F01F, 0x000001FF, 0xFFFFFFFF].getD k.val 0 := by
  subst hL
  exact ⟨rfl, by revert k; decide⟩

/-- Settles O23: the word is written in both cases, and the fault is all that the next step records. -/
theorem descriptorWrite : Obligations.DescriptorWrite := by
  intro s t n k v hk L inUse
  let written := s.modTile t fun T => T.writeBd n k v
  have htile : written.tile t = (s.tile t).writeBd n k v := State.modTile_tile_same ..
  have hother : ∀ u, u ≠ t → written.tile u = s.tile u := fun u hu => State.modTile_tile_ne s t u _ hu
  have hmem : SameMemory s written := SameMemory.mod (f := fun T => T.writeBd n k v) (fun _ => rfl) 0
  refine ⟨rfl, fun hL => (bd_reference hL n k).1, ?_⟩
  obtain ⟨s', hexec, htiles, hframe, hin, hout⟩ : ∃ s', exec (.bdWr t n k v) s = .next s' ∧ s'.tiles = written.tiles
      ∧ s' = { s with tiles := s'.tiles, pending := s'.pending } ∧ (inUse → s'.pending = some (.bdInUseWrite n))
      ∧ (¬ inUse → s'.pending = s.pending) := by
    by_cases hu : inUse
    · exact ⟨_, exec_bdWr_inUse hk hu k v, rfl, rfl, fun _ => rfl, fun h => absurd hu h⟩
    · exact ⟨_, exec_bdWr hk hu k v, rfl, rfl, fun h => absurd h hu, fun _ => rfl⟩
  have hsame : ∀ u, s'.tile u = written.tile u := fun u => by rw [State.tile, htiles]; rfl
  refine ⟨s', hexec, ?word, ?words, ?abCur, ?tile, ?others, ?memory, hframe, fun hu => ⟨hin hu, ?raised⟩, hout⟩
  case word => rw [hsame, htile, Tile.writeBd_cell, if_pos rfl]
  case words => intro n' k' hne; rw [hsame, htile, Tile.writeBd_cell, if_neg hne]
  case abCur =>
    intro n'
    rw [hsame, htile, Tile.writeBd_abCur]
    by_cases h6 : k = 6
    · rw [if_pos h6, getElem_set_fin]; simp only [h6, and_true, eq_comm]
    · rw [if_neg h6, if_neg fun h => h6 h.2]
  case tile => rw [hsame, htile]; rfl
  case others => intro u hu; rw [hsame, hother u hu]
  case memory => intro u a; rw [hsame]; exact hmem u a
  case raised =>
    rintro ⟨hf, hr, -⟩
    have hf' : s'.faults = [] := by rw [hframe]; exact hf
    have hr' : s'.refusal = none := by rw [hframe]; exact hr
    simp only [step, oneStep, hf', hr', hin hu, State.raise, List.nil_append]

/-- Settles O24, by the two cases of `written`. -/
theorem descriptorRead : Obligations.DescriptorRead := by
  intro s t n k hk L
  exact ⟨rfl, fun hL => bd_reference hL n k, fun hw => exec_readsBack (exec_bdRd hk hw), exec_bdRd_unwritten hk⟩

/-! ### The words of a commit (R203) -/

/-- A tile after a host wrote the words `ks` of descriptor `n` with the values `w`, in that order. -/
def Tile.writeBdWords (T : Tile) (n : BdIx) (w : Vector Word 7) (ks : List BdWordIx) : Tile :=
  ks.foldl (fun T k => T.writeBd n k w[k]) T

theorem Tile.writeBdWords_cons (T : Tile) (n : BdIx) (w : Vector Word 7) (k : BdWordIx) (ks : List BdWordIx) :
    T.writeBdWords n w (k :: ks) = (T.writeBd n k w[k]).writeBdWords n w ks := rfl

/-- Only descriptor words and `abCur` change. -/
theorem Tile.writeBdWords_frame (T : Tile) (n : BdIx) (w : Vector Word 7) (ks : List BdWordIx) :
    T.writeBdWords n w ks
      = { T with bdw := (T.writeBdWords n w ks).bdw, abCur := (T.writeBdWords n w ks).abCur } := by
  induction ks generalizing T with
  | nil => rfl
  | cons k ks ih => rw [writeBdWords_cons, ih]; rfl

/-- Every word among `ks` holds its value and is written; the others are as before (R191). -/
theorem Tile.writeBdWords_cell (T : Tile) (n : BdIx) (w : Vector Word 7) (ks : List BdWordIx) (n' : BdIx) (k' : BdWordIx) :
    (T.writeBdWords n w ks).bdw[n'][k'] = if n' = n ∧ k' ∈ ks then ⟨w[k'], true⟩ else T.bdw[n'][k'] := by
  induction ks generalizing T with
  | nil => simp [writeBdWords]
  | cons k ks ih =>
    rw [writeBdWords_cons, ih, Tile.writeBd_cell]
    by_cases hn : n' = n <;> by_cases hk : k' = k <;> simp [hn, hk]

/-- A write of word 6 among them sets `abCur` to A (R46, R191). -/
theorem Tile.writeBdWords_abCur (T : Tile) (n : BdIx) (w : Vector Word 7) (ks : List BdWordIx) :
    (T.writeBdWords n w ks).abCur = if 6 ∈ ks then T.abCur.set n .a else T.abCur := by
  induction ks generalizing T with
  | nil => rfl
  | cons k ks ih =>
    rw [writeBdWords_cons, ih, Tile.writeBd_abCur]
    by_cases h : k = 6
    · simp [h]
    · simp [h, Ne.symm h]

/-! ### The turns of a commit (R74, R203) -/

/-- A host may write the words of descriptor `n` of tile `e`, and nothing stops it. -/
structure CommitRuns (s : State) (e : TileId) (n : BdIx) : Prop where
  compute : s.kind e = .ct
  clean : s.Clean
  isMap : s.params.IsMap
  free : ¬ s.writeFaults e n

/-- A tile may change in what the words of a descriptor are, and the host's program may advance. -/
theorem CommitRuns.modTile {s : State} {e : TileId} {n : BdIx} (h : CommitRuns s e n) {f : Tile → Tile}
    (href : (f (s.tile e)).ref = (s.tile e).ref) (hwalk : (f (s.tile e)).walker = (s.tile e).walker) (q : List HostOp) :
    CommitRuns ((s.setQueue q).modTile e f) e n where
  compute := by rw [State.kind, State.modTile_tile_same]; exact (congrArg TileRef.kind href).trans h.compute
  clean := h.clean
  isMap := h.isMap
  free := by
    rw [State.writeFaults, State.modTile_tile_same]
    exact fun hu => h.free (by rw [State.writeFaults, ← hwalk]; exact hu)

/-- A clean state has not ended. -/
theorem State.Clean.not_ended {s : State} (h : s.Clean) : s.ended = false := by
  obtain ⟨hf, hr, hp⟩ := h
  simp only [State.ended, hf, hr, hp]; rfl

/-- A run of host turns, one of which goes on. -/
theorem hostRun_succ {s s1 : State} (hc : s.Clean) (h : hostTurn s = .next s1) (m : Nat) : hostRun (m + 1) s = hostRun m s1 := by
  simp only [hostRun, hc.not_ended, h, Bool.false_eq_true, if_false]

/-- The next transaction of a commit writes its word (R191, R203). -/
theorem CommitRuns.hostTurn_write {s : State} {e : TileId} {n : BdIx} (h : CommitRuns s e n) {k : BdWordIx} {v : Word}
    {q : List HostOp} (hq : s.host.queue = .bus e 32 true (bdOff (s.layout e) n k) v :: q) :
    hostTurn s = .next ((s.setQueue q).modTile e fun T => T.writeBd n k v) := by
  have hm : Reg.mapped s.params (s.kind e) (.bd n k) = true := beq_iff_eq.2 h.compute
  have hdec : decode s.params s.kinds (.bus e 32 true (bdOff (s.layout e) n k) v) = .ok (.bdWr e n k v) :=
    decode_plainRow (kind := s.kinds) h.isMap (r := .bd n k) hm nofun rfl
  rw [hostTurn_of_cons hq]
  exact (runRaw_of_decode (s := s.setQueue q) hdec).trans (exec_bdWr (s := s.setQueue q) h.compute h.free k v)

/-- A tile left as it is leaves the state as it is. -/
theorem State.modTile_self (s : State) (t : TileId) : (s.modTile t fun T => T) = s := by
  simp [State.modTile, State.setTile, State.tile]

/-- Two changes of one tile, the host's program advancing before each, are one change. -/
theorem State.modTile_setQueue_modTile (s : State) (t : TileId) (f g : Tile → Tile) (q rest : List HostOp) :
    (((s.setQueue q).modTile t f).setQueue rest).modTile t g = (s.setQueue rest).modTile t fun T => g (f T) := by
  simp [State.modTile, State.setTile, State.setQueue, State.tile]

/-- The writes of a commit still queued are performed, one host turn each, and the rest of the program is left (R203). -/
theorem CommitRuns.hostRun_writes {s : State} {e : TileId} {n : BdIx} (h : CommitRuns s e n) (w : Vector Word 7)
    (ks : List BdWordIx) (rest : List HostOp) (m : Nat)
    (hq : s.host.queue = ks.map (fun k => .bus e 32 true (bdOff (s.layout e) n k) w[k]) ++ rest) :
    hostRun (ks.length + m) s = hostRun m ((s.setQueue rest).modTile e fun T => T.writeBdWords n w ks) := by
  induction ks generalizing s with
  | nil =>
    have hrest : s.setQueue rest = s := by rw [← show s.host.queue = rest from hq]; rfl
    rw [hrest, List.length_nil, Nat.zero_add]
    exact congrArg (hostRun m) (State.modTile_self s e).symm
  | cons k ks ih =>
    let q := ks.map (fun k => .bus e 32 true (bdOff (s.layout e) n k) w[k]) ++ rest
    let next := (s.setQueue q).modTile e fun T => T.writeBd n k w[k]
    have hturn : hostTurn s = .next next := h.hostTurn_write hq
    have hnext : CommitRuns next e n := h.modTile rfl rfl q
    have hlayout : next.layout e = s.layout e := congrArg s.params.layout (hnext.compute.trans h.compute.symm)
    calc hostRun ((k :: ks).length + m) s
      _ = hostRun (ks.length + m) next := by rw [List.length_cons, Nat.add_right_comm, hostRun_succ h.clean hturn]
      _ = hostRun m ((next.setQueue rest).modTile e fun T => T.writeBdWords n w ks) := ih hnext (by rw [hlayout]; rfl)
      _ = _ := congrArg (hostRun m) (State.modTile_setQueue_modTile ..)

/-- The state in which a commit of descriptor `n` ends: its words written with the values `w`, and the result Ok. -/
def State.committed (s : State) (e : TileId) (n : BdIx) (w : Vector Word 7) : State :=
  (s.modTile e fun T => T.writeBdWords n w (List.finRange 7)).ret .ok

theorem State.committed_tile_same (s : State) (e : TileId) (n : BdIx) (w : Vector Word 7) :
    (s.committed e n w).tile e = (s.tile e).writeBdWords n w (List.finRange 7) := by
  rw [committed, State.ret_tile, State.modTile_tile_same]

theorem State.committed_tile_ne (s : State) {e u : TileId} (n : BdIx) (w : Vector Word 7) (hu : u ≠ e) :
    (s.committed e n w).tile u = s.tile u := by
  rw [committed, State.ret_tile, State.modTile_tile_ne _ _ _ _ hu]

/-- The eighth turn of a commit, after its seven writes, returns Ok and leaves the rest of the program (R203, R371). -/
theorem CommitRuns.hostRun_commit {s : State} {e : TileId} {n : BdIx} (h : CommitRuns s e n) (w : Vector Word 7) :
    hostRun 8 (s.begin ((List.finRange 7).map (fun k => .bus e 32 true (bdOff (s.layout e) n k) w[k]) ++ [.ret .ok]))
      = .next (s.committed e n w) := by
  let ops := (List.finRange 7).map (fun k => HostOp.bus e 32 true (bdOff (s.layout e) n k) w[k]) ++ [.ret .ok]
  have hbegun : CommitRuns (s.begin ops) e n := ⟨h.compute, h.clean, h.isMap, h.free⟩
  have hwritten := hbegun.modTile (f := fun T => T.writeBdWords n w (List.finRange 7)) rfl rfl (.ret .ok :: s.host.queue)
  have hwrites := hbegun.hostRun_writes w (List.finRange 7) (.ret .ok :: s.host.queue) 1 (by simp [ops])
  exact hwrites.trans (hostRun_succ hwritten.clean (hostTurn_of_cons (op := .ret .ok) (q := s.host.queue) rfl) 0)

/-- A commit of an index beyond the mirror answers BadBdIndex (R203). -/
theorem exec_bdCommit_badBdIndex {s : State} {e : TileId} {k : Nat} (hk : s.kind e = .ct) (hn : 16 ≤ k) :
    exec (.bdCommit e k) s = .next (s.ret (.err .badBdIndex)) :=
  congrArg Host.Outcome.next ((onEngine_pos hk).trans (checked_err (firstErr_badBdIndex hn []) s _))

/-- A commit queues its seven writes and its return (R203). -/
theorem exec_bdCommit {s : State} {e : TileId} (hk : s.kind e = .ct) (n : BdIx) :
    exec (.bdCommit e n.val) s
      = .next (s.begin (commitOps (s.layout e) e n (s.engine e).bd[n] ++ [.ret .ok])) := by
  refine congrArg Host.Outcome.next ((onEngine_pos hk).trans ?_)
  simp only [checked_ok (firstErr_bdIndex n.isLt []), bdIx_val]

/-- A word that sets no reserved bit is read back exactly (R140). -/
theorem readBack_of_no_reserved {mask w : Word} (h : w &&& ~~~mask = 0) (d : Nat) : readBack mask w d = w := if_pos h

/-- Settles O52: the run of `CommitRuns.hostRun_commit`, and the packed words, which set no reserved bit, read back. -/
theorem commitRoundTrip : Obligations.CommitRoundTrip := by
  intro s e hk L
  refine ⟨fun k hn => exec_bdCommit_badBdIndex hk hn, ?run⟩
  intro n hc hmap hfree b
  let w := packBd L.bd b
  have htile := s.committed_tile_same e n w
  have hcell : ∀ k : BdWordIx, ((s.committed e n w).tile e).bdw[n][k] = ⟨w[k], true⟩ := fun k => by
    rw [htile, Tile.writeBdWords_cell, if_pos ⟨rfl, List.mem_finRange k⟩]
  have habCur : ((s.committed e n w).tile e).abCur = (s.tile e).abCur.set n .a := by
    rw [htile, Tile.writeBdWords_abCur, if_pos (List.mem_finRange 6)]
  have hkind : (s.committed e n w).kind e = .ct := (congrArg (fun T => T.ref.kind) htile).trans hk
  refine ⟨_, s.committed e n w, exec_bdCommit hk n, CommitRuns.hostRun_commit ⟨hk, hc, hmap, not_writeFaults hfree⟩ w,
    ?queue, fun hL k => (bd_reference hL n k).1, rfl,
    fun _ hu => s.committed_tile_ne n w hu, ?memory, ?tile, hcell, fun m hm => ?others, fun k => ?read⟩
  case queue => simp [commitOps, L, b]
  case memory =>
    exact SameMemory.mod (f := fun T => T.writeBdWords n w (List.finRange 7)) (fun _ => rfl) 0
  case tile => rw [← habCur, htile]; exact Tile.writeBdWords_frame ..
  case others =>
    refine Vector.ext fun k hk' => ?_
    have := Tile.writeBdWords_cell (s.tile e) n w (List.finRange 7) m ⟨k, hk'⟩
    rw [if_neg fun h => hm h.1] at this
    rw [htile]; exact this
  case read =>
    have hlayout : (s.committed e n w).layout e = L := congrArg s.params.layout (hkind.trans hk.symm)
    refine ⟨_, exec_bdRd hkind (by rw [hcell]), ?_⟩
    rw [State.hostReadsReg_host, hcell, hlayout]
    exact readBack_of_no_reserved (packBd_reserved L.bd b k) _

end Sys2Proof.Machine
end

section
/-! PROOF. The parameters that the spec leaves free (O60): the address generator and the packet header meet their laws in every
instantiation. -/

namespace Sys2Proof.Machine

/-! ### The address generator (R271) -/

/-- With the 2D fields cleared the formula counts up from the base through the two axes, 256 words in a row. -/
theorem addrRef_cleared (base : Nat) {k : Nat} (hk : k < 8192) : addrRef ⟨base, 0, 255, 1, 255, 255, 256⟩ k = base + k := by
  simp only [addrRef]; omega

/-- Either generator meets the law of the cleared fields. -/
theorem addrGen2D_cleared (m : Config.Gen) (base : Nat) {k : Nat} (hk : k < 8192) :
    addrGen2D m ⟨base, 0, 255, 1, 255, 255, 256⟩ k = base + k := by
  cases m with
  | reference => exact addrRef_cleared base hk
  | free => exact if_pos (by rw [decide_eq_true hk]; rfl)

/-! ### The packet header (R351) -/

/-- The id of a reference header is its low five bits. -/
theorem hdrId_reference_toNat (h : Word) : (hdrId .reference h).toNat = h.toNat % 32 := by
  rw [hdrId, getField_toNat, Nat.pow_zero, Nat.div_one]; rfl

/-- The reference header has the type from bit 12 up and the id below. -/
theorem mkHeader_reference_toNat (type id : BitVec 5) :
    (mkHeader .reference type id).toNat = type.toNat * 2 ^ 12 + id.toNat := by
  have hid : id.toNat < 2 ^ 12 := id.isLt.trans (by decide)
  rw [mkHeader, BitVec.toNat_or, setField_toNat (by decide), setField_toNat (by decide), Nat.mod_eq_of_lt id.isLt,
    Nat.mod_eq_of_lt type.isLt, Nat.pow_zero, Nat.mul_one, Nat.or_comm, Nat.mul_comm]
  exact (Nat.two_pow_add_eq_or_of_lt hid type.toNat).symm

/-- The id of a reference header is the one it was built from: the type stands apart from it. -/
theorem hdrId_mkHeader_reference (type id : BitVec 5) : hdrId .reference (mkHeader .reference type id) = id := by
  rw [hdrId, mkHeader, getField_setField_or (by decide) (getField_setField_disjoint _ _ _ _ _ (by decide)),
    BitVec.ofNat_toNat, BitVec.setWidth_eq]

theorem mem_headerIds {words : Vector (Vector Word 32) 32} {h : Word} {i : Fin 32} :
    i ∈ headerIds words h ↔ ∃ t : Fin 32, words[t][i] = h := by
  simp only [headerIds, List.mem_filter, List.mem_finRange, true_and, List.any_eq_true, beq_iff_eq]

/-- In a table that gives no word two ids, the id of a header is the one it was built from. -/
theorem hdrId_mkHeader_given {words : Vector (Vector Word 32) 32}
    (hw : ∀ t t' i i' : Fin 32, words[t][i] = words[t'][i'] → i = i') (type id : BitVec 5) :
    hdrId (.given words) (mkHeader (.given words) type id) = id := by
  have hmem : id.toFin ∈ headerIds words words[type.toFin][id.toFin] := mem_headerIds.2 ⟨type.toFin, rfl⟩
  simp only [hdrId, mkHeader]
  split
  · rename_i i _ hids
    obtain ⟨t, ht⟩ := mem_headerIds.1 (hids ▸ List.mem_cons_self : i ∈ headerIds words words[type.toFin][id.toFin])
    rw [hw _ _ _ _ ht]
  · rename_i hids
    rw [hids] at hmem; cases hmem

/-- Settles O60, law by law. -/
theorem parameterLaws : Obligations.ParameterLaws :=
  ⟨fun m base _ hk => addrGen2D_cleared m base hk, hdrId_mkHeader_reference,
    fun _ hw => ⟨hdrId_mkHeader_given hw, fun _ _ => rfl⟩, fun _ _ _ _ _ _ _ _ => rfl, mkHeader_reference_toNat,
    hdrId_reference_toNat⟩

end Sys2Proof.Machine
end

section
/-! PROOF. The channel register writes (O25) and the steps of a walker (O32 to O39).  When a walker's turn is a step is said once
per step; a step then changes its walker and at most one more part of its tile. -/

namespace Sys2Proof.Machine

/-! ### Channel register writes (R251, R253, R257) -/

/-- A place of a vector, one place of which is set on a condition. -/
theorem getElem_set_if {n : Nat} {α : Type} (v : Vector α n) (p : Bool) (i j : Fin n) (x : α) :
    (if p = true then v.set i x else v)[j] = if p = true ∧ i = j then x else v[j] := by
  cases p with
  | false => simp only [Bool.false_eq_true, if_false, false_and]
  | true => simp only [if_true, true_and, getElem_set_fin]

/-- The channel registers in `L_REF` (R103, R127, R128). -/
theorem channel_reference {L : Config.Layout} (hL : L = .reference .ct) (c : Nat) :
    ctrlOff L c = 0x1DE00 + 8 * c ∧ startBdOff L c = 0x1DE04 + 8 * c
      ∧ L.ctrlReset = 1 ∧ L.ctrlEnable = 0 ∧ L.startBd = 0 := by
  subst hL; exact ⟨rfl, rfl, rfl, rfl, rfl⟩

/-- A write of a control register stores the word, and resets the walker where its Reset bit is set (R251, R257). -/
theorem Tile.writeCtrl_eq (T : Tile) (L : Config.Layout) (c : ChIx) (v : Word) :
    T.writeCtrl L c v = { T with
      ctrl := T.ctrl.set c ⟨v, true⟩
      walker := if v.getLsbD L.ctrlReset then T.walker.set c ⟨.idle, 0, none, .a, 0, false⟩ else T.walker } := by
  unfold Tile.writeCtrl ctrlReset getBit
  split <;> rfl

theorem exec_chCtrlWr {s : State} {t : TileId} (hk : s.kind t = .ct) (c : ChIx) (v : Word) :
    exec (.chCtrlWr t c v) s = .next (s.modTile t fun T => T.writeCtrl (s.layout t) c v) := exec_of_kind hk rfl

/-- A start-BD write to an Idle walker stores the word and makes a start pending (R253). -/
theorem exec_chStartBdWr {s : State} {t : TileId} {c : ChIx} (hk : s.kind t = .ct)
    (hi : ((s.tile t).walker[c]).phase = .idle) (v : Word) :
    exec (.chStartBdWr t c v) s = .next (s.modTile t fun T => T.writeStartBd c v) :=
  (exec_of_kind hk rfl).trans (congrArg Host.Outcome.next (if_neg (not_not_intro hi)))

/-- A start-BD write to a busy walker is a fault (R253). -/
theorem exec_chStartBdWr_busy {s : State} {t : TileId} {c : ChIx} (hk : s.kind t = .ct)
    (hi : ((s.tile t).walker[c]).phase ≠ .idle) (v : Word) :
    exec (.chStartBdWr t c v) s = .next (s.raise (.startBdBusy c)) :=
  (exec_of_kind hk rfl).trans (congrArg Host.Outcome.next (if_pos hi))

/-! ### When a walker may step (R259 to R261) -/

section

variable {s : State} {t : TileId} {c : ChIx} {b : HwBd}

theorem walkIn_iff_ct (hk : s.kind t = .ct) {p : Phase} : s.walkIn t c p = true ↔
    ((s.tile t).walker[c]).phase = p ∧ ((s.tile t).ctrl[c]).val.getLsbD (s.layout t).ctrlReset = false := by
  simp only [State.walkIn, hk, State.walker, ctrlReset, State.ctrl, getBit, beq_self_eq_true, Bool.true_and,
    Bool.and_eq_true, beq_iff_eq, Bool.not_eq_true']

/-- A start is a step of an Idle walker, out of reset, enabled, with a start pending (R260). -/
theorem walkStart_iff (hk : s.kind t = .ct) :
    (s.walkIn t c .idle && ctrlEnable (s.layout t) (s.ctrl t c) && (s.walker t c).startPending) = true ↔
    ((s.tile t).walker[c]).phase = .idle ∧ ((s.tile t).ctrl[c]).val.getLsbD (s.layout t).ctrlReset = false
      ∧ ((s.tile t).ctrl[c]).val.getLsbD (s.layout t).ctrlEnable = true ∧ ((s.tile t).walker[c]).startPending = true := by
  rw [Bool.and_eq_true, Bool.and_eq_true, walkIn_iff_ct hk, and_assoc, and_assoc]; rfl

/-- Abandoning is a step of a walker that is not Idle, on a channel disabled and out of reset (R261). -/
theorem walkAbandon_iff (hk : s.kind t = .ct) :
    (s.kind t == .ct && (s.walker t c).phase != .idle && !ctrlEnable (s.layout t) (s.ctrl t c)
      && !ctrlReset (s.layout t) (s.ctrl t c)) = true ↔
    ((s.tile t).walker[c]).phase ≠ .idle ∧ ((s.tile t).ctrl[c]).val.getLsbD (s.layout t).ctrlEnable = false
      ∧ ((s.tile t).ctrl[c]).val.getLsbD (s.layout t).ctrlReset = false := by
  simp only [hk, State.walker, ctrlEnable, ctrlReset, State.ctrl, getBit, beq_self_eq_true, Bool.true_and,
    Bool.and_eq_true, bne_iff_ne, Bool.not_eq_true', and_assoc]

/-- The descriptor that a walk begins with: the StartBd field of the register (R128, R260). -/
theorem startBdField_val (L : Config.Layout) (w : Word) : (startBdField L w).val = w.toNat / 2 ^ L.startBd % 16 := by
  show (getField w L.startBd 4).toNat % 16 = _
  rw [getField_toNat]; exact Nat.mod_mod _ 16

/-- A step that sets the walker changes nothing else. -/
theorem next_setWalker {i : Instr} {w : Walker} (h : exec i s = .next (s.setWalker t c w)) :
    ∃ s', exec i s = .next s' ∧ OnlyTile t s s' ∧ SameMemory s s'
      ∧ s'.tile t = { s.tile t with walker := (s.tile t).walker.set c w } :=
  next_mod (fun T => T.setWalker c w) 0 h (fun _ => rfl) rfl

/-! ### Fetch (R262, R268) -/

/-- The lowest unwritten word is found. -/
theorem firstUnwritten_eq_some {w : Vector RegCell 7} {k : BdWordIx} (hk : (w[k]).written = false)
    (hlow : ∀ j : BdWordIx, j < k → (w[j]).written = true) : firstUnwritten w = some k := by
  rw [firstUnwritten, ← Fin.find?_eq_find?_finRange, Fin.find?_eq_some_iff]
  exact ⟨by rw [hk]; rfl, fun j hj => by rw [hlow j hj]; rfl⟩

theorem firstUnwritten_eq_none {w : Vector RegCell 7} (h : ∀ k : BdWordIx, (w[k]).written = true) :
    firstUnwritten w = none := by
  rw [firstUnwritten, List.find?_eq_none]
  intro k _
  rw [h k]; decide

/-- The words of a descriptor, one by one. -/
theorem cellWords_eq (w : Vector RegCell 7) :
    cellWords w = #v[(w[0]).val, (w[1]).val, (w[2]).val, (w[3]).val, (w[4]).val, (w[5]).val, (w[6]).val] := rfl

theorem exec_walkFetch (hw : s.walkIn t c .fetch = true) : exec (.walkFetch t c) s = .next (fetchBd t c s) :=
  congrArg Host.Outcome.next (if_pos hw)

/-- A fetch of a descriptor with an unwritten word (R262). -/
theorem fetchBd_unwritten {k : BdWordIx} (h : firstUnwritten (s.tile t).bdw[(s.walker t c).cur] = some k) :
    fetchBd t c s = s.raise (.unwritten (bdOff (s.layout t) (s.walker t c).cur k)) := by
  simp only [fetchBd, h]

/-- A fetch of a descriptor whose words are all written: the checks of the decoded words in the rule's order (R262, R268). -/
theorem fetchBd_written (h : firstUnwritten (s.tile t).bdw[(s.walker t c).cur] = none)
    (hb : unpackBd (s.layout t).bd (cellWords (s.tile t).bdw[(s.walker t c).cur]) = b) :
    fetchBd t c s =
      if b.valid = false then s.raise (.bdInvalid (s.walker t c).cur)
      else if b.fields.intlvEn = true then s.refuse .interleave
      else if b.fields.fifoMode ≠ 0 then s.refuse .fifoMode
      else s.setWalker t c { s.walker t c with
        snap := some b
        buf := if b.fields.abMode then (s.tile t).abCur[(s.walker t c).cur] else .a
        done := 0, phase := .acquire } := by
  simp only [fetchBd, h, hb, Bool.not_eq_true']

/-! ### Lock requests (R263, R265) -/

/-- The lock of a slot is the one its field names (R169). -/
theorem SlotFields.lock_eq {f : SlotFields} {l : LockIx} (h : l.val = f.lockId.toNat) : f.lock = l :=
  Fin.ext ((Nat.mod_eq_of_lt f.lockId.isLt).trans h.symm)

/-- The value an acquire asks for, if any (R263). -/
def SlotFields.acqWants (f : SlotFields) : Option Bool := if f.acqValEn then some f.acqVal else none

/-- The value a release stores, if any (R265). -/
def SlotFields.relStores (f : SlotFields) : Option Bool := if f.relValEn then some f.relVal else none

theorem SlotFields.acqKind_eq (f : SlotFields) : f.acqKind = f.acqWants.elim .acqNV .acqV := by
  unfold acqKind acqWants; split <;> rfl

theorem SlotFields.relKind_eq (f : SlotFields) : f.relKind = f.relStores.elim .relNV .relV := by
  unfold relKind relStores; split <;> rfl

theorem SlotFields.acqWants_iff {f : SlotFields} {x : Bool} :
    (∀ v, f.acqWants = some v → x = v) ↔ (f.acqValEn = true → x = f.acqVal) := by
  unfold acqWants
  split
  · rename_i h; exact ⟨fun hv _ => hv _ rfl, fun hv _ hs => (hv h).trans (Option.some.inj hs)⟩
  · rename_i h; exact ⟨fun _ hv => absurd hv h, fun _ => nofun⟩

theorem SlotFields.relStores_getD (f : SlotFields) (x : Bool) : f.relStores.getD x = if f.relValEn then f.relVal else x := by
  unfold relStores; split <;> rfl

/-- A step that sets the walker and makes a lock request changes the lock and the order of accesses besides (R83). -/
theorem next_lockRequest_setWalker {i : Instr} {who : Agent} {l : LockIx} {q : LockKind} {ok : Bool} {L' : Lock} {w : Walker}
    (h : exec i s = .next ((s.lockRequest who t l q).setWalker t c w))
    (hstep : lockStep s.params.relFree (Config.freeBit s.draws) (s.tile t).lock[l] q = (ok, L')) :
    ∃ s', exec i s = .next s' ∧ OnlyTileOrder t s s' ∧ SameMemory s s'
      ∧ s'.tile t = { s.tile t with walker := (s.tile t).walker.set c w, lock := (s.tile t).lock.set l L' } := by
  let s' := (s.lockRequest who t l q).setWalker t c w
  have hother : ∀ u, u ≠ t → s'.tile u = s.tile u := fun u hu =>
    (State.modTile_tile_ne _ _ _ _ hu).trans (State.lockRequest_tile_ne s who t u l q hu)
  have htile : s'.tile t = { s.tile t with walker := (s.tile t).walker.set c w, lock := (s.tile t).lock.set l L' } := by
    simp only [s', State.setWalker, State.modTile_tile_same, State.lockRequest_tile_same, hstep, Tile.setWalker]
  exact ⟨s', h, ⟨rfl, hother⟩, .of_tile hother (by rw [htile]), htile⟩

theorem exec_walkAcquire (hw : s.walkIn t c .acquire = true) (hs : (s.walker t c).snap = some b) :
    exec (.walkAcquire t c) s = .next (acquireBd t c b s) := by
  simp only [exec, execWalkAcquire, hw, hs]

/-- An acquire as its slot asks for one, and as its request goes (R263). -/
theorem acquireBd_eq {f : SlotFields} {l : LockIx} (hf : b.fields.slot (s.walker t c).buf = f) (hl : f.lock = l) :
    acquireBd t c b s =
      if f.acqEn = false then s.setWalker t c { s.walker t c with phase := afterAcquire c b }
      else if s.lockOk t l f.acqKind = true then
        (s.lockRequest (.walker t c) t l f.acqKind).setWalker t c { s.walker t c with phase := afterAcquire c b }
      else s := by
  subst hl hf; simp only [acquireBd, Bool.not_eq_true']

theorem afterAcquire_eq (c : ChIx) (b : HwBd) :
    afterAcquire c b = if 2 ≤ c.val ∧ b.fields.pktEn = true then .header else .transfer := by
  simp only [afterAcquire, isMm2s, Bool.and_eq_true, decide_eq_true_eq]

theorem exec_walkRelease (hw : s.walkIn t c .release = true) (hs : (s.walker t c).snap = some b) :
    exec (.walkRelease t c) s = .next (releaseBd t c b s) := by
  simp only [exec, execWalkRelease, hw, hs]

/-- A release as its slot asks for one, and as its request goes (R265). -/
theorem releaseBd_eq {f : SlotFields} {l : LockIx} (hf : b.fields.slot (s.walker t c).buf = f) (hl : f.lock = l) :
    releaseBd t c b s =
      if f.relEn = false then s.setWalker t c { s.walker t c with phase := .advance }
      else if s.lockOk t l f.relKind = true then
        (s.lockRequest (.walker t c) t l f.relKind).setWalker t c { s.walker t c with phase := .advance }
      else s.lockRequest (.walker t c) t l f.relKind := by
  subst hl hf; simp only [releaseBd, Bool.not_eq_true']

/-! ### Words of a transfer (R264, R270, R274) -/

/-- The slave port that a memory-to-stream channel feeds (R274). -/
theorem channelSlave_eq {q : Config.Params} {c : ChIx} {sp : SlaveId} (h : sp.val = q.slavesCt.dma.first + (c.val - 2)) :
    q.channelSlave c = sp := Fin.ext ((congrArg (· % 128) h.symm).trans (Nat.mod_eq_of_lt sp.isLt))

/-- The master port that a stream-to-memory channel drains (R274). -/
theorem channelMaster_eq {q : Config.Params} {c : ChIx} {mp : MasterId} (h : mp.val = q.mastersCt.dma.first + c.val) :
    q.channelMaster c = mp := Fin.ext ((congrArg (· % 128) h.symm).trans (Nat.mod_eq_of_lt mp.isLt))

theorem isMm2s_eq_true (h : 2 ≤ c.val) : isMm2s c = true := decide_eq_true h

theorem isMm2s_eq_false (h : c.val < 2) : isMm2s c = false := decide_eq_false (Nat.not_le.2 h)

theorem not_hasSpace {depth : Nat} {q : List StreamWord} (h : depth ≤ q.length) : ¬ hasSpace depth q = true := by
  rw [hasSpace_iff]; exact Nat.not_lt.2 h

theorem exec_walkHeader (hw : s.walkIn t c .header = true) (hs : (s.walker t c).snap = some b) :
    exec (.walkHeader t c) s = .next (sendHeader t c b s) := by
  simp only [exec, execWalkHeader, hw, hs]

theorem exec_walkTransfer (hw : s.walkIn t c .transfer = true) (hs : (s.walker t c).snap = some b) :
    exec (.walkTransfer t c) s = .next (if isMm2s c then sendWord t c b s else storeWord t c b s) := by
  simp only [exec, execWalkTransfer, hw, hs]

/-- The walker after one more word of its transfer (R270). -/
theorem Walker.moved_eq {w : Walker} (hp : w.phase = .transfer) (b : HwBd) :
    w.moved b = { w with
      done := w.done + 1
      phase := if w.done + 1 = b.fields.length.toNat + 1 then .release else .transfer } := by
  rw [Walker.moved, hp]; rfl

/-! ### Advance (R266, R267) -/

theorem exec_walkAdvance (hw : s.walkIn t c .advance = true) (hs : (s.walker t c).snap = some b) :
    exec (.walkAdvance t c) s = .next (s.modTile t fun T =>
      { T.setWalker c ((s.walker t c).advanced (ctrlEnable (s.layout t) (s.ctrl t c)) b) with
        abCur := if b.fields.abMode then T.abCur.set (s.walker t c).cur (otherSlot (s.walker t c).buf) else T.abCur }) := by
  simp only [exec, execWalkAdvance, hw, hs]

/-- The walker after a descriptor, by the chain (R266). -/
theorem Walker.advanced_eq (w : Walker) (L : Config.Layout) (v : Word) (b : HwBd) :
    w.advanced (ctrlEnable L v) b = if v.getLsbD L.ctrlEnable = true ∧ b.fields.nextEn = true then
        { w with cur := Fin.ofNat 16 b.nextBd.toNat, phase := .fetch, snap := none, done := 0 }
      else { w with phase := .idle, snap := none, done := 0 } := by
  simp only [advanced, ctrlEnable, getBit, Bool.and_eq_true]

theorem otherSlot_eq (x : Slot) : otherSlot x = if x = .a then .b else .a := by cases x <;> rfl

end

/-! ### The statements -/

/-- Settles O25: a control write changes the tile as `Tile.writeCtrl_eq` says, and a start-BD write goes by the phase. -/
theorem channelWrites : Obligations.ChannelWrites := by
  intro s t c v hk L
  obtain ⟨s', hexec, hframe, hmem, htile⟩ := next_mod (fun T => T.writeCtrl L c v) 0 (exec_chCtrlWr hk c v)
    (fun T => T.writeCtrl_dm L c v) ((s.tile t).writeCtrl_eq L c v)
  refine ⟨⟨rfl, rfl, fun hL => channel_reference hL c⟩,
    ⟨s', hexec, ?ctrl, ?walker, fun d hd => ?others, by rw [htile], hframe, hmem⟩, fun hi => ?start,
    fun hi => exec_chStartBdWr_busy hk hi v⟩
  case ctrl => rw [htile, getElem_set_fin, if_pos rfl]
  case walker => rw [htile, getElem_set_if]; simp only [and_true]
  case others =>
    rw [htile, getElem_set_if]
    exact ⟨by rw [getElem_set_fin, if_neg hd.symm], if_neg fun h => hd h.2.symm⟩
  case start =>
    obtain ⟨s', hexec, hframe, hmem, htile⟩ := next_mod (fun T => T.writeStartBd c v) 0 (exec_chStartBdWr hk hi v)
      (fun _ => rfl) rfl
    exact ⟨s', hexec, htile, hframe, hmem⟩

/-- Settles O32: a start and an abandoned walk set the walker, and without their conditions nothing is set. -/
theorem walkStartsAndAbandons : Obligations.WalkStartsAndAbandons := by
  intro s t c hk w L reset enable
  refine ⟨fun hL => (channel_reference hL 0).2.2, fun h => ?start, fun h => ?noStart, fun h => ?abandon, fun h => ?noAbandon⟩
  case start =>
    obtain ⟨s', hexec, hframe, hmem, htile⟩ := next_setWalker (i := .walkStart t c)
      (congrArg Host.Outcome.next (if_pos ((walkStart_iff hk).2 h)))
    exact ⟨s', _, hexec, hframe, hmem, startBdField_val .., htile⟩
  case noStart => exact congrArg Host.Outcome.next (if_neg (mt (walkStart_iff hk).1 h))
  case abandon =>
    exact next_setWalker (i := .walkAbandon t c) (congrArg Host.Outcome.next (if_pos ((walkAbandon_iff hk).2 h)))
  case noAbandon => exact congrArg Host.Outcome.next (if_neg (mt (walkAbandon_iff hk).1 h))

/-- Settles O33: the first unwritten word, then the checks of `fetchBd_written` in order. -/
theorem walkFetches : Obligations.WalkFetches := by
  intro s t c hk w bd b hp hr
  have hfetch : exec (.walkFetch t c) s = .next (fetchBd t c s) := exec_walkFetch (walkIn_of hk hp hr)
  refine ⟨fun k hunw hlow => ?unwritten, fun hall => ?written⟩
  case unwritten => rw [hfetch, fetchBd_unwritten (firstUnwritten_eq_some hunw hlow)]; rfl
  case written =>
    have hchecks := hfetch.trans (congrArg Host.Outcome.next
      (fetchBd_written (b := b) (firstUnwritten_eq_none hall) (congrArg _ (cellWords_eq bd))))
    clear_value b
    refine ⟨fun hv => ?invalid, fun hv hi => ?interleave, fun hv hi hf => ?fifo, fun hv hi hf => ?fetched⟩
    case invalid => rw [hchecks, if_pos hv]; rfl
    case interleave => rw [hchecks, if_neg (ne_false_of_eq_true hv), if_pos hi]; rfl
    case fifo => rw [hchecks, if_neg (ne_false_of_eq_true hv), if_neg (ne_true_of_eq_false hi), if_pos hf]; rfl
    case fetched =>
      rw [if_neg (ne_false_of_eq_true hv), if_neg (ne_true_of_eq_false hi), if_neg (not_not_intro hf)] at hchecks
      exact next_setWalker hchecks

/-- Settles O34: without `acqEn` no request is made, and else it goes as `lockStep_acquire` says. -/
theorem walkAcquires : Obligations.WalkAcquires := by
  intro s t c b hk w f next hp hr hs l hl
  have hexec : exec (.walkAcquire t c) s = .next (acquireBd t c b s) := exec_walkAcquire (walkIn_of hk hp hr) hs
  rw [acquireBd_eq (f := f) rfl (SlotFields.lock_eq hl), afterAcquire_eq, SlotFields.acqKind_eq] at hexec
  refine ⟨fun hen => ?none, fun hen hfree => ?granted, fun hen hbusy => ?waits⟩
  case none => rw [if_pos hen] at hexec; exact next_setWalker hexec
  case granted =>
    have hstep := lockStep_acquire_of_outcome (p := s.params.relFree) (c := Config.freeBit s.draws) (v := f.acqWants)
      (.inl ⟨rfl, hfree.1, SlotFields.acqWants_iff.2 hfree.2, rfl⟩)
    have hok : s.lockOk t l (f.acqWants.elim .acqNV .acqV) = true := congrArg Prod.fst hstep
    rw [if_neg (ne_false_of_eq_true hen), if_pos hok] at hexec
    exact next_lockRequest_setWalker hexec hstep
  case waits =>
    have hstep := lockStep_acquire_of_outcome (p := s.params.relFree) (c := Config.freeBit s.draws) (v := f.acqWants)
      (.inr ⟨rfl, fun h => hbusy ⟨h.1, SlotFields.acqWants_iff.1 h.2⟩, rfl⟩)
    have hfails : s.lockOk t l (f.acqWants.elim .acqNV .acqV) = false := congrArg Prod.fst hstep
    rw [if_neg (ne_false_of_eq_true hen), hfails, if_neg Bool.false_ne_true] at hexec
    exact hexec

/-- Settles O35: with space the header is appended, and without it nothing is done. -/
theorem walkSendsHeader : Obligations.WalkSendsHeader := by
  intro s t c b hk hc w hp hr hs sp hsp
  have hexec : exec (.walkHeader t c) s = .next (sendHeader t c b s) := exec_walkHeader (walkIn_of hk hp hr) hs
  simp only [sendHeader, channelSlave_eq hsp, isMm2s_eq_true hc, Bool.true_and] at hexec
  refine ⟨fun href => ?port, fun hspace => ?sends, fun hfull => ?waits⟩
  case port =>
    rw [href] at hsp
    exact hsp.trans (Nat.add_sub_cancel' hc)
  case sends =>
    rw [if_pos ((hasSpace_iff _ _).2 hspace)] at hexec
    exact next_mod (fun T => (T.pushIn sp ⟨mkHeader s.params.header b.fields.pktType b.fields.pktId, false⟩).setWalker c
      { w with phase := .transfer }) 0 hexec (fun _ => rfl) rfl
  case waits => rw [if_neg (not_hasSpace hfull)] at hexec; exact hexec

/-- Settles O36: no space, an address beyond the memory, or one word that `State.dmValue` gives. -/
theorem walkSendsWord : Obligations.WalkSendsWord := by
  intro s t c b hk hc w a final hp hr hs sp hsp
  have hexec := exec_walkTransfer (walkIn_of hk hp hr) hs
  rw [if_pos (isMm2s_eq_true hc)] at hexec
  simp only [sendWord, channelSlave_eq hsp, show s.nextAddr t c b = a from rfl] at hexec
  refine ⟨fun hfull => ?waits, fun hspace hout => ?fault, fun hspace hin => ?sends⟩
  case waits => rw [if_neg (not_hasSpace hfull)] at hexec; exact hexec
  case fault => rw [if_pos ((hasSpace_iff _ _).2 hspace), if_pos hout] at hexec; exact hexec
  case sends =>
    rw [if_pos ((hasSpace_iff _ _).2 hspace), if_neg (Nat.not_le.2 hin)] at hexec
    let x : StreamWord := ⟨s.dmValue (.walker t c) t a, decide final⟩
    obtain ⟨s', hnext, hframe, hmem, htile⟩ := next_mod (fun T => (T.pushIn sp x).setWalker c (w.moved b)) _ hexec
      (fun _ => rfl) rfl
    refine ⟨s', s.dmValue (.walker t c) t a, hnext, hframe, hmem, fun hrace => ?noRace, s.dmValue_mem _ t a, ?tile⟩
    case noRace =>
      rw [State.dmValue_of_no_race hrace]
      exact ⟨fun v hv => by rw [hv]; rfl, fun hn => by rw [hn]; rfl⟩
    case tile => rw [htile, Walker.moved_eq hp]; rfl

/-- Settles O37: no word, an address beyond the memory, or the head of the queue stored as any agent's write is. -/
theorem walkStoresWord : Obligations.WalkStoresWord := by
  intro s t c b hk hc w a hp hr hs mp hmp
  have hexec := exec_walkTransfer (walkIn_of hk hp hr) hs
  rw [if_neg (ne_true_of_eq_false (isMm2s_eq_false hc))] at hexec
  simp only [storeWord, channelMaster_eq hmp, show s.nextAddr t c b = a from rfl] at hexec
  refine ⟨fun href => ?port, fun hempty => ?waits, fun x rest hq => ⟨fun hout => ?fault, fun hin => ?stores⟩⟩
  case port =>
    rw [href] at hmp
    exact hmp.trans (Nat.add_comm 2 _)
  case waits => simp only [hempty] at hexec; exact hexec
  case fault => simp only [hq, if_pos hout] at hexec; exact hexec
  case stores =>
    simp only [hq, if_neg (Nat.not_le.2 hin)] at hexec
    let stored := s.dmWrite (.walker t c) t a x.data
    let s' := stored.modTile t fun T => (T.popOut mp).setWalker c (w.moved b)
    obtain ⟨hword, -, hothers, htile⟩ := dmWrite_facts s (.walker t c) t a x.data
    have hsame : s'.tile t = ((stored.tile t).popOut mp).setWalker c (w.moved b) := State.modTile_tile_same ..
    have hne : ∀ u, u ≠ t → s'.tile u = stored.tile u := fun u hu => State.modTile_tile_ne _ _ _ _ hu
    refine ⟨s', hexec, ⟨rfl, fun u hu => ?frame⟩, by rw [hsame]; exact hword, fun u y hy => ?memory,
      fun who hwho => mem_racing_dmWrite hwho s t a x.data, ?tile⟩
    case frame => rw [hne u hu]; exact State.dmWrite_tile_ne _ _ _ _ _ _ hu
    case memory =>
      rw [← hothers u y hy]
      by_cases hu : u = t
      · rw [hu, hsame]; rfl
      · rw [hne u hu]
    case tile =>
      rw [hsame, htile, Walker.moved_eq hp]
      simp only [Tile.setWalker, Tile.popOut, hq, List.tail_cons]

/-- Settles O38: without `relEn` no request is made, and else it goes as `P_REL_FREE` says of a free lock. -/
theorem walkReleases : Obligations.WalkReleases := by
  intro s t c b hk w f hp hr hs l hl
  have hexec : exec (.walkRelease t c) s = .next (releaseBd t c b s) := exec_walkRelease (walkIn_of hk hp hr) hs
  rw [releaseBd_eq (f := f) rfl (SlotFields.lock_eq hl), SlotFields.relKind_eq] at hexec
  refine ⟨fun hen => ?none, fun hen hok => ?freed, fun hen hheld hfail => ?holds⟩
  case none => rw [if_pos hen] at hexec; exact next_setWalker hexec
  case freed =>
    have hstep := lockStep_release_ok _ _ (s.tile t).lock[l] f.relStores hok
    rw [SlotFields.relStores_getD] at hstep
    have hok : s.lockOk t l (f.relStores.elim .relNV .relV) = true := congrArg Prod.fst hstep
    rw [if_neg (ne_false_of_eq_true hen), if_pos hok] at hexec
    exact next_lockRequest_setWalker hexec hstep
  case holds =>
    have hstep := lockStep_release_fail _ _ (s.tile t).lock[l] f.relStores hheld hfail
    have hfails : s.lockOk t l (f.relStores.elim .relNV .relV) = false := congrArg Prod.fst hstep
    rw [if_neg (ne_false_of_eq_true hen), hfails, if_neg Bool.false_ne_true, lockRequest_fail _ _ _ _ _ hfails] at hexec
    exact ⟨_, hexec⟩

/-- Settles O39: the walker by its chain, and `abCur` of its descriptor by the buffer mode. -/
theorem walkAdvances : Obligations.WalkAdvances := by
  intro s t c b hk w ctrl hp hr hs n hn
  have hnext : Fin.ofNat 16 b.nextBd.toNat = n := Fin.ext ((Nat.mod_eq_of_lt b.nextBd.isLt).trans hn.symm)
  let walker := w.advanced (ctrlEnable (s.layout t) ctrl) b
  obtain ⟨s', hexec, hframe, hmem, htile⟩ := next_mod (fun T => { T.setWalker c walker with
      abCur := if b.fields.abMode then T.abCur.set w.cur (otherSlot w.buf) else T.abCur }) 0
    (exec_walkAdvance (walkIn_of hk hp hr) hs) (fun _ => rfl) rfl
  refine ⟨s', hexec, hframe, hmem, by rw [htile, ← hnext, ← Walker.advanced_eq]; rfl, ?current, fun m hm => ?others⟩
  case current => rw [htile, getElem_set_if, ← otherSlot_eq]; simp only [and_true]
  case others => rw [htile, getElem_set_if, if_neg fun h => hm h.2.symm]

end Sys2Proof.Machine
end

section
/-! PROOF. The channel commands (O53) and the runs of `ch.reset`, `ch.resetAll` and the engine's initialisation (O54, O55).  A run with no
other agent stepping changes one tile, one engine and the host's program: `State.during` is a state of such a run, and each
host operation moves one of its parts. -/

namespace Sys2Proof.Machine

/-! ### The control word (R127, R280) -/

/-- Where the fields of the channel registers stand (R127, R128). -/
theorem channelFits_places {L : Config.Layout} (h : L.ChannelFits) :
    L.ctrlReset < 32 ∧ L.ctrlEnable < 32 ∧ L.ctrlReset ≠ L.ctrlEnable ∧ L.startBd + 4 ≤ 32 := by
  simp only [Config.Layout.ChannelFits, FieldsFit, List.forall_mem_cons, List.pairwise_cons] at h
  obtain ⟨⟨⟨hreset, henable, -⟩, ⟨hapart, -⟩, -⟩, ⟨hstart, -⟩, -⟩ := h
  exact ⟨hreset, henable, by omega, hstart⟩

/-- A one-bit field of a flag sets its bit where the flag is 1, and no other bit (R110). -/
theorem getLsbD_setField_flag {v i : Nat} (hv : v < 2) (hi : i < 32) (j : Nat) :
    (setField v i 1).getLsbD j = (decide (j = i) && decide (v = 1)) := by
  rw [getLsbD_setField]
  by_cases h : j = i
  · subst h
    rw [Nat.sub_self, Nat.testBit_zero, Nat.mod_eq_of_lt hv, decide_eq_true (by omega), decide_eq_true rfl]
  · rw [decide_eq_false (by omega), decide_eq_false h, Bool.false_and, Bool.false_and]

theorem ctrlWord_reset {L : Config.Layout} (h : L.ChannelFits) {reset enable : Nat} (hr : reset < 2) (he : enable < 2) :
    (ctrlWord L reset enable).getLsbD L.ctrlReset = decide (reset = 1) := by
  obtain ⟨hreset, henable, hne, -⟩ := channelFits_places h
  rw [ctrlWord, BitVec.getLsbD_or, getLsbD_setField_flag hr hreset, getLsbD_setField_flag he henable,
    decide_eq_true rfl, decide_eq_false hne, Bool.true_and, Bool.false_and, Bool.or_false]

theorem ctrlWord_enable {L : Config.Layout} (h : L.ChannelFits) {reset enable : Nat} (hr : reset < 2) (he : enable < 2) :
    (ctrlWord L reset enable).getLsbD L.ctrlEnable = decide (enable = 1) := by
  obtain ⟨hreset, henable, hne, -⟩ := channelFits_places h
  rw [ctrlWord, BitVec.getLsbD_or, getLsbD_setField_flag hr hreset, getLsbD_setField_flag he henable,
    decide_eq_true rfl, decide_eq_false hne.symm, Bool.true_and, Bool.false_and, Bool.false_or]

/-- A write of a control word resets the walker exactly where its reset flag is 1 (R257, R280). -/
theorem Tile.writeCtrl_ctrlWord {L : Config.Layout} (h : L.ChannelFits) {reset enable : Nat} (hr : reset < 2)
    (he : enable < 2) (T : Tile) (c : ChIx) :
    T.writeCtrl L c (ctrlWord L reset enable) = { T with
      ctrl := T.ctrl.set c ⟨ctrlWord L reset enable, true⟩
      walker := if reset = 1 then T.walker.set c ⟨.idle, 0, none, .a, 0, false⟩ else T.walker } := by
  rw [Tile.writeCtrl_eq, ctrlWord_reset h hr he]
  simp only [decide_eq_true_eq]

theorem ctrlWord_reference_toNat {reset enable : Nat} (hr : reset < 2) (he : enable < 2) :
    (ctrlWord (.reference .ct) reset enable).toNat = 2 * reset + enable := by
  interval_cases reset <;> interval_cases enable <;> rfl

theorem ctrlWord_zero (L : Config.Layout) : ctrlWord L 0 0 = 0 := by
  simp only [ctrlWord, setField, Nat.zero_mod, BitVec.ofNat_eq_ofNat, BitVec.zero_shiftLeft, BitVec.or_zero]

/-- The start-BD word holds the index in its field (R128). -/
theorem startBdWord_field {L : Config.Layout} (h : L.ChannelFits) {bd : Nat} (hbd : bd < 16) :
    (startBdWord L bd).toNat / 2 ^ L.startBd % 16 = bd := by
  obtain ⟨-, -, -, hfit⟩ := channelFits_places h
  have hfield := getField_toNat (startBdWord L bd) L.startBd 4
  rw [startBdWord, getField_setField_same bd _ _ hfit, BitVec.toNat_ofNat, Nat.mod_eq_of_lt (show bd < 2 ^ 4 from hbd)] at hfield
  exact hfield.symm

theorem startBdWord_reference_toNat {bd : Nat} (hbd : bd < 16) : (startBdWord (.reference .ct) bd).toNat = bd :=
  (setField_toNat (lsb := 0) (w := 4) (by decide) bd).trans (by rw [Nat.pow_zero, Nat.mul_one]; exact Nat.mod_eq_of_lt hbd)

/-! ### The operations of a channel command (R280 to R284) -/

theorem channelIx_val (c : ChIx) : Fin.ofNat 4 c.val = c := Fin.ext (Nat.mod_eq_of_lt c.isLt)

/-- A sub-command whose first failing check is `r` returns it. -/
theorem subCommand_err {cs : List (Bool × ErrReason)} {r : ErrReason} (h : firstErr cs = some r) (ops : List HostOp) :
    subCommand cs ops = .error r := by simp only [subCommand, h]

/-- A sub-command whose checks all hold does its operations. -/
theorem subCommand_ok {cs : List (Bool × ErrReason)} (h : firstErr cs = none) (ops : List HostOp) :
    subCommand cs ops = .ok ops := by simp only [subCommand, h]

/-- The channel check fails first (R280, R281). -/
theorem firstErr_badChannel {c : Nat} (hc : 4 ≤ c) (cs : List (Bool × ErrReason)) :
    firstErr ((decide (c < 4), .badChannel) :: cs) = some .badChannel :=
  firstErr_fail fun h => Nat.not_lt.2 hc (of_decide_eq_true h)

theorem firstErr_channel {c : Nat} (hc : c < 4) (cs : List (Bool × ErrReason)) :
    firstErr ((decide (c < 4), .badChannel) :: cs) = firstErr cs := firstErr_pass (decide_eq_true hc) rfl

/-- The two flags of `ch.control` (R280). -/
theorem flags_iff {reset enable : Nat} : (isFlag reset && isFlag enable) = true ↔ reset < 2 ∧ enable < 2 := by
  rw [Bool.and_eq_true, isFlag_iff, isFlag_iff]

theorem controlOps_ok (L : Config.Layout) (e : TileId) {c reset enable : Nat} (hc : c < 4) (hr : reset < 2) (he : enable < 2) :
    controlOps L e c reset enable = .ok [.bus e 32 true (ctrlOff L c) (ctrlWord L reset enable)] :=
  subCommand_ok ((firstErr_channel hc _).trans (firstErr_pass (flags_iff.2 ⟨hr, he⟩) rfl)) _

theorem startBdOps_index (L : Config.Layout) (e : TileId) (c : ChIx) {bd : Nat} (hbd : bd < 16) :
    startBdOps L e c.val bd = .ok [.bus e 32 true (startBdOff L c.val) (startBdWord L bd),
      .noteStartBd e c (BitVec.ofNat 8 bd)] := by
  rw [startBdOps, subCommand_ok ((firstErr_channel c.isLt _).trans (firstErr_pass (isBdOrSentinel_iff.2 (.inl hbd)) rfl)),
    if_neg (by omega), channelIx_val]
  rfl

theorem startBdOps_sentinel (L : Config.Layout) (e : TileId) (c : ChIx) :
    startBdOps L e c.val 0xFF = .ok [.noteStartBd e c 0xFF] := by
  rw [startBdOps, subCommand_ok ((firstErr_channel c.isLt _).trans rfl), if_pos rfl, channelIx_val]
  rfl

/-- The three operations that make a channel ready (R282). -/
def readyOps (L : Config.Layout) (e : TileId) (c : ChIx) : List HostOp :=
  [.bus e 32 true (ctrlOff L c) (ctrlWord L 1 0), .bus e 32 true (ctrlOff L c) (ctrlWord L 0 0), .noteStartBd e c 0xFF]

theorem resetOps_val (L : Config.Layout) (e : TileId) (c : ChIx) : resetOps L e c.val = (readyOps L e c, .ok) := by
  rw [resetOps, subCommand_ok (firstErr_channel c.isLt []), controlOps_ok L e c.isLt (by decide) (by decide),
    controlOps_ok L e c.isLt (by decide) (by decide), startBdOps_sentinel]
  rfl

theorem resetAllOps_eq (L : Config.Layout) (e : TileId) :
    resetAllOps L e = ((List.finRange 4).flatMap (readyOps L e), .ok) := by
  have hrange : (List.range 4).map (resetOps L e) = (List.finRange 4).map fun c => (readyOps L e c, .ok) := by
    rw [← List.map_coe_finRange_eq_range, List.map_map]
    exact List.map_congr_left fun c _ => resetOps_val L e c
  simp only [resetAllOps, hrange, List.flatMap_map, List.all_map]
  rfl

theorem initOps_eq (L : Config.Layout) (e : TileId) :
    initOps L e = ((List.finRange 4).flatMap (readyOps L e) ++ (List.finRange 4).map (fun c => .noteStartBd e c 0xFF)
      ++ [.noteReady e], .ok) := by
  rw [initOps, resetAllOps_eq]; rfl

/-! ### A state of a run -/

/-- The state `s`, but that tile `e` is `T`, the place of engine `e` holds `g`, the host's program is `q` and the result of its
command `r`. -/
def State.during (s : State) (e : TileId) (T : Tile) (g : Option Eng) (q : List HostOp) (r : Option CmdResult) : State :=
  { s with tiles := s.tiles.set e T, host := { s.host with eng := s.host.eng.set e g, queue := q, result := r } }

section

variable {s : State} {e : TileId} {T : Tile} {g : Option Eng} {q : List HostOp} {r : Option CmdResult}

@[simp] theorem State.during_tile_same : (s.during e T g q r).tile e = T := State.setTile_tile_same s e T

theorem State.during_tile_ne {u : TileId} (hu : u ≠ e) : (s.during e T g q r).tile u = s.tile u :=
  State.setTile_tile_ne s e u T hu

theorem State.during_modTile (f : Tile → Tile) : (s.during e T g q r).modTile e f = s.during e (f T) g q r := by
  rw [State.modTile, State.during_tile_same]
  simp only [State.setTile, State.during, Vector.set_set]

theorem State.during_engine : (s.during e T g q r).engine e = g.getD .created := by
  simp only [State.engine, State.during, Fin.getElem_fin, Vector.getElem_set_self]

theorem State.during_setEngine (x : Eng) : (s.during e T g q r).setEngine e x = s.during e T (some x) q r := by
  simp only [State.setEngine, State.during, Vector.set_set]

/-- An engine's place holds what it holds. -/
theorem State.eng_set_self (s : State) (e : TileId) : s.host.eng.set e s.host.eng[e] = s.host.eng := by
  simp only [Fin.getElem_fin, Vector.set_getElem_self]

/-- A run that has changed no tile. -/
theorem State.during_tile_self :
    s.during e (s.tile e) g q r = { s with host := { s.host with eng := s.host.eng.set e g, queue := q, result := r } } := by
  simp only [State.during, State.tile, Fin.getElem_fin, Vector.set_getElem_self]

/-- A command that has begun is at the start of its run (R371; log 14). -/
theorem State.perform_during (ops : List HostOp) (x : CmdResult) :
    s.perform (ops, x) = s.during e (s.tile e) s.host.eng[e] (ops ++ .ret x :: s.host.queue) none := by
  rw [State.during_tile_self]
  simp only [State.perform, State.begin, State.eng_set_self, List.append_assoc, List.singleton_append]

/-- A command that sets its engine before it begins (R284; log 29). -/
theorem State.setEngine_perform (x : Eng) (ops : List HostOp) (y : CmdResult) :
    (s.setEngine e x).perform (ops, y) = s.during e (s.tile e) (some x) (ops ++ .ret y :: s.host.queue) none := by
  rw [State.during_tile_self]
  simp only [State.perform, State.begin, State.setEngine, List.append_assoc, List.singleton_append]

/-- What a run that has ended leaves of the state it began in. -/
theorem State.during_facts (hd : T.dm = (s.tile e).dm) :
    let s2 := s.during e T g s.host.queue r
    s2 = { s with tiles := s2.tiles, host := { s.host with eng := s.host.eng.set e g, result := r } }
      ∧ (∀ u, u ≠ e → s2.tile u = s.tile u) ∧ SameMemory s s2 ∧ s2.tile e = T :=
  ⟨rfl, fun _ hu => State.during_tile_ne hu,
    .of_tile (fun _ hu => State.during_tile_ne hu) ((congrArg Tile.dm State.during_tile_same).trans hd),
    State.during_tile_same⟩

end

/-! ### The turns of a run -/

/-- A host may run the commands of engine `e`, and nothing stops it. -/
structure ChannelRuns (s : State) (e : TileId) : Prop where
  compute : s.kind e = .ct
  clean : s.Clean
  isMap : s.params.IsMap
  fits : (s.layout e).ChannelFits

section

variable {s : State} {e : TileId} {T : Tile} {g : Option Eng} {q : List HostOp} {r : Option CmdResult} {c : ChIx} {v : Word}

theorem State.Clean.hostRun_during {s1 : State} (h : s.Clean) (hturn : hostTurn (s.during e T g q r) = .next s1) (m : Nat) :
    hostRun (m + 1) (s.during e T g q r) = hostRun m s1 := hostRun_succ (s := s.during e T g q r) h hturn m

/-- The state of a run whose tile has its own reference is on a compute tile, in the layout the run began with. -/
theorem ChannelRuns.during (h : ChannelRuns s e) (hT : T.ref = (s.tile e).ref) (q : List HostOp) :
    (s.during e T g q r).kind e = .ct ∧ (s.during e T g q r).layout e = s.layout e := by
  have hk : (s.during e T g q r).kind e = s.kind e := by
    rw [State.kind, State.during_tile_same, hT]; rfl
  exact ⟨hk.trans h.compute, congrArg s.params.layout hk⟩

/-- A write of a register of a compute tile, but of the lock-request region, runs the register's row (R101). -/
theorem ChannelRuns.hostTurn_write (h : ChannelRuns s e) (hT : T.ref = (s.tile e).ref) {x : Reg} {i : Instr}
    (hx : Reg.mapped s.params .ct x = true) (hl : ∀ l op, x ≠ .lock l op) (hi : writeRow .ct e v x = i) :
    hostTurn (s.during e T g (.bus e 32 true (x.off (s.layout e)) v :: q) r) = exec i (s.during e T g q r) := by
  obtain ⟨hk, hL⟩ := h.during (g := g) (r := r) hT q
  have hm : Reg.mapped s.params ((s.during e T g q r).kinds e) x = true := by rw [State.kinds, hk]; exact hx
  have hrow : writeRow ((s.during e T g q r).kinds e) e v x = i := by rw [State.kinds, hk]; exact hi
  rw [hostTurn_of_cons rfl, ← hL]
  exact runRaw_of_decode (s := s.during e T g q r) (decode_plainRow h.isMap hm hl (congrArg some hrow))

/-- A write of a control register (R251, R257). -/
theorem ChannelRuns.hostTurn_ctrl (h : ChannelRuns s e) (hT : T.ref = (s.tile e).ref) :
    hostTurn (s.during e T g (.bus e 32 true (ctrlOff (s.layout e) c) v :: q) r)
      = .next (s.during e (T.writeCtrl (s.layout e) c v) g q r) := by
  obtain ⟨hk, hL⟩ := h.during (g := g) (r := r) hT q
  refine (h.hostTurn_write (x := .ctrl c) hT rfl nofun rfl).trans ((exec_chCtrlWr hk c v).trans ?_)
  rw [State.during_modTile, hL]

/-- A start-BD write to an Idle walker makes a start pending (R253). -/
theorem ChannelRuns.hostTurn_startBd (h : ChannelRuns s e) (hT : T.ref = (s.tile e).ref) (hi : (T.walker[c]).phase = .idle) :
    hostTurn (s.during e T g (.bus e 32 true (startBdOff (s.layout e) c) v :: q) r)
      = .next (s.during e (T.writeStartBd c v) g q r) := by
  have hi' : (((s.during e T g q r).tile e).walker[c]).phase = .idle := by rw [State.during_tile_same]; exact hi
  refine (h.hostTurn_write (x := .startBd c) hT rfl nofun rfl).trans ((exec_chStartBdWr (h.during hT q).1 hi' v).trans ?_)
  rw [State.during_modTile]

/-- A start-BD write to a busy walker is a fault (R253). -/
theorem ChannelRuns.hostTurn_startBd_busy (h : ChannelRuns s e) (hT : T.ref = (s.tile e).ref)
    (hi : (T.walker[c]).phase ≠ .idle) :
    hostTurn (s.during e T g (.bus e 32 true (startBdOff (s.layout e) c) v :: q) r)
      = .next ((s.during e T g q r).raise (.startBdBusy c)) := by
  have hi' : (((s.during e T g q r).tile e).walker[c]).phase ≠ .idle := by rw [State.during_tile_same]; exact hi
  exact (h.hostTurn_write (x := .startBd c) hT rfl nofun rfl).trans (exec_chStartBdWr_busy (h.during hT q).1 hi' v)

/-- A run that has ended goes no further (R372). -/
theorem hostRun_ended {s : State} (h : s.ended = true) (n : Nat) : hostRun (n + 1) s = .next s := by
  simp only [hostRun, h, if_true]

theorem State.raise_ended (s : State) (f : Fault) : (s.raise f).ended = true := by
  simp [State.ended, State.raise]

/-- Bookkeeping of a start BD (R281). -/
def Eng.mark (g : Eng) (c : ChIx) (x : BitVec 8) : Eng := { g with startBd := g.startBd.set c x }

theorem hostTurn_mark (x : BitVec 8) :
    hostTurn (s.during e T g (.noteStartBd e c x :: q) r)
      = .next (s.during e T (some ((g.getD .created).mark c x)) q r) := by
  rw [hostTurn_of_cons rfl]
  show Host.Outcome.next ((s.during e T g q r).setEngine e (((s.during e T g q r).engine e).mark c x)) = _
  rw [State.during_engine, State.during_setEngine]

theorem hostTurn_noteReady :
    hostTurn (s.during e T g (.noteReady e :: q) r)
      = .next (s.during e T (some { g.getD .created with ready := true }) q r) := by
  rw [hostTurn_of_cons rfl]
  show Host.Outcome.next ((s.during e T g q r).setEngine e { (s.during e T g q r).engine e with ready := true }) = _
  rw [State.during_engine, State.during_setEngine]

/-- The last turn of a command returns its result (R371). -/
theorem State.Clean.hostRun_ret (h : s.Clean) (x : CmdResult) :
    hostRun 1 (s.during e T g (.ret x :: q) r) = .next (s.during e T g q (some x)) :=
  h.hostRun_during (s1 := s.during e T g q (some x)) (hostTurn_of_cons (op := .ret x) (q := q) rfl) 0

/-! ### One write, and its bookkeeping (R280, R281) -/

/-- The run of `ch.control`. -/
theorem ChannelRuns.hostRun_control (h : ChannelRuns s e) (hT : T.ref = (s.tile e).ref) :
    hostRun 2 (s.during e T g (.bus e 32 true (ctrlOff (s.layout e) c) v :: .ret .ok :: q) r)
      = .next (s.during e (T.writeCtrl (s.layout e) c v) g q (some .ok)) :=
  (h.clean.hostRun_during (h.hostTurn_ctrl hT) 1).trans (h.clean.hostRun_ret .ok)

/-- The run of `ch.setStartBd` with the sentinel. -/
theorem State.Clean.hostRun_mark (h : s.Clean) (x : BitVec 8) :
    hostRun 2 (s.during e T g (.noteStartBd e c x :: .ret .ok :: q) r)
      = .next (s.during e T (some ((g.getD .created).mark c x)) q (some .ok)) :=
  (h.hostRun_during (hostTurn_mark x) 1).trans (h.hostRun_ret .ok)

/-- The run of `ch.setStartBd` with an index, the walker being Idle. -/
theorem ChannelRuns.hostRun_startBd (h : ChannelRuns s e) (hT : T.ref = (s.tile e).ref) (hi : (T.walker[c]).phase = .idle)
    (x : BitVec 8) :
    hostRun 3 (s.during e T g (.bus e 32 true (startBdOff (s.layout e) c) v :: .noteStartBd e c x :: .ret .ok :: q) r)
      = .next (s.during e (T.writeStartBd c v) (some ((g.getD .created).mark c x)) q (some .ok)) :=
  (h.clean.hostRun_during (h.hostTurn_startBd hT hi) 2).trans (h.clean.hostRun_mark x)

/-- The same with the walker busy: it ends at the fault, before the bookkeeping (R253, R372). -/
theorem ChannelRuns.hostRun_startBd_busy (h : ChannelRuns s e) (hT : T.ref = (s.tile e).ref)
    (hi : (T.walker[c]).phase ≠ .idle) (n : Nat) :
    hostRun (n + 2) (s.during e T g (.bus e 32 true (startBdOff (s.layout e) c) v :: q) r)
      = .next ((s.during e T g q r).raise (.startBdBusy c)) :=
  (h.clean.hostRun_during (h.hostTurn_startBd_busy hT hi) (n + 1)).trans (hostRun_ended (State.raise_ended ..) n)

/-! ### Channels made ready (R282, R283) -/

/-- A tile whose channel `c` was made ready: its control register 0 and its walker at the power-on value. -/
def Tile.ready (T : Tile) (c : ChIx) : Tile :=
  { T with ctrl := T.ctrl.set c ⟨0, true⟩, walker := T.walker.set c ⟨.idle, 0, none, .a, 0, false⟩ }

/-- An engine with no start BD kept for channel `c`. -/
def Eng.unmark (g : Option Eng) (c : ChIx) : Option Eng := some ((g.getD .created).mark c 0xFF)

/-- A reset of the channel and the write that ends it make the channel ready (R257, R282). -/
theorem Tile.writeCtrl_writeCtrl {L : Config.Layout} (hL : L.ChannelFits) (T : Tile) (c : ChIx) :
    (T.writeCtrl L c (ctrlWord L 1 0)).writeCtrl L c (ctrlWord L 0 0) = T.ready c := by
  rw [Tile.writeCtrl_ctrlWord hL (by decide) (by decide), Tile.writeCtrl_ctrlWord hL (by decide) (by decide)]
  simp only [ctrlWord_zero, Vector.set_set, Tile.ready]
  rfl

/-- The three turns that make a channel ready. -/
theorem ChannelRuns.hostRun_ready (h : ChannelRuns s e) (hT : T.ref = (s.tile e).ref) (m : Nat) :
    hostRun (m + 3) (s.during e T g (readyOps (s.layout e) e c ++ q) r)
      = hostRun m (s.during e (T.ready c) (Eng.unmark g c) q r) := by
  have hT' : (T.writeCtrl (s.layout e) c (ctrlWord (s.layout e) 1 0)).ref = (s.tile e).ref := (Tile.writeCtrl_ref ..).trans hT
  rw [← Tile.writeCtrl_writeCtrl h.fits]
  exact (h.clean.hostRun_during (h.hostTurn_ctrl hT) (m + 2)).trans ((h.clean.hostRun_during (h.hostTurn_ctrl hT') (m + 1)).trans
    (h.clean.hostRun_during (hostTurn_mark 0xFF) m))

/-- Channels made ready one after another. -/
theorem ChannelRuns.hostRun_readyAll (h : ChannelRuns s e) (hT : T.ref = (s.tile e).ref) (cs : List ChIx) (m : Nat) :
    hostRun (m + 3 * cs.length) (s.during e T g (cs.flatMap (readyOps (s.layout e) e) ++ q) r)
      = hostRun m (s.during e (cs.foldl Tile.ready T) (cs.foldl Eng.unmark g) q r) := by
  induction cs generalizing T g with
  | nil => rfl
  | cons c cs ih =>
    rw [List.flatMap_cons, List.append_assoc]
    exact (h.hostRun_ready hT (m + 3 * cs.length)).trans (ih (T := T.ready c) hT)

/-- Bookkept start BDs reset one after another. -/
theorem State.Clean.hostRun_unmarkAll (h : s.Clean) (cs : List ChIx) (m : Nat) :
    hostRun (m + cs.length) (s.during e T g (cs.map (fun c => .noteStartBd e c 0xFF) ++ q) r)
      = hostRun m (s.during e T (cs.foldl Eng.unmark g) q r) := by
  induction cs generalizing g with
  | nil => rfl
  | cons c cs ih => exact (h.hostRun_during (hostTurn_mark 0xFF) (m + cs.length)).trans ih

end

/-! ### All four channels -/

/-- A vector with the places `is` set to `x`. -/
theorem getElem_foldl_set {n : Nat} {α : Type} (x : α) (is : List (Fin n)) (v : Vector α n) (j : Fin n) :
    (is.foldl (fun w (i : Fin n) => w.set i x) v)[j] = if j ∈ is then x else v[j] := by
  induction is generalizing v with
  | nil => rfl
  | cons i is ih =>
    rw [List.foldl_cons, ih, getElem_set_fin]
    simp only [List.mem_cons, eq_comm (a := j)]
    by_cases hj : j ∈ is <;> by_cases hi : i = j <;> simp [hj, hi]

theorem foldl_set_finRange {n : Nat} {α : Type} (x : α) (v : Vector α n) :
    (List.finRange n).foldl (fun w (i : Fin n) => w.set i x) v = .replicate n x := by
  refine Vector.ext fun j hj => ?_
  have hplace := getElem_foldl_set x (List.finRange n) v ⟨j, hj⟩
  rw [if_pos (List.mem_finRange _)] at hplace
  rw [Vector.getElem_replicate]; exact hplace

theorem Tile.foldl_ready (cs : List ChIx) (T : Tile) :
    cs.foldl Tile.ready T = { T with
      ctrl := cs.foldl (fun w (c : ChIx) => w.set c ⟨0, true⟩) T.ctrl
      walker := cs.foldl (fun w (c : ChIx) => w.set c ⟨.idle, 0, none, .a, 0, false⟩) T.walker } := by
  induction cs generalizing T with
  | nil => rfl
  | cons c cs ih => rw [List.foldl_cons, ih]; rfl

theorem Eng.foldl_unmark (cs : List ChIx) (g : Eng) :
    cs.foldl Eng.unmark (some g) = some { g with startBd := cs.foldl (fun w (c : ChIx) => w.set c 0xFF) g.startBd } := by
  induction cs generalizing g with
  | nil => rfl
  | cons c cs ih => exact ih (g.mark c 0xFF)

/-- A tile all of whose channels were made ready. -/
theorem Tile.ready_all (T : Tile) : (List.finRange 4).foldl Tile.ready T = { T with
    ctrl := .replicate 4 ⟨0, true⟩, walker := .replicate 4 ⟨.idle, 0, none, .a, 0, false⟩ } := by
  rw [Tile.foldl_ready, foldl_set_finRange, foldl_set_finRange]

/-- An engine that keeps no start BD; one not yet created is created with its first mark (log 13). -/
theorem Eng.unmark_all (g : Option Eng) :
    (List.finRange 4).foldl Eng.unmark g = some { g.getD .created with startBd := .replicate 4 0xFF } := by
  have hcreate : (List.finRange 4).foldl Eng.unmark g = (List.finRange 4).foldl Eng.unmark (some (g.getD .created)) := by
    rw [List.finRange_succ]; rfl
  rw [hcreate, Eng.foldl_unmark, foldl_set_finRange]

/-- The run of an initialisation after the mirror is cleared (R284). -/
theorem ChannelRuns.hostRun_init {s : State} {e : TileId} (h : ChannelRuns s e) (g : Eng) (q : List HostOp) :
    hostRun 18 (s.during e (s.tile e) (some g) ((List.finRange 4).flatMap (readyOps (s.layout e) e)
        ++ ((List.finRange 4).map (fun c => .noteStartBd e c 0xFF) ++ (.noteReady e :: .ret .ok :: q))) none)
      = .next (s.during e { s.tile e with
          ctrl := .replicate 4 ⟨0, true⟩, walker := .replicate 4 ⟨.idle, 0, none, .a, 0, false⟩ }
        (some ⟨true, .replicate 4 0xFF, g.bd⟩) q (some .ok)) := by
  have hrun := (h.hostRun_readyAll (T := s.tile e) (g := some g) (r := none) rfl (List.finRange 4) 6).trans
    ((h.clean.hostRun_unmarkAll (List.finRange 4) 2).trans
      ((h.clean.hostRun_during (hostTurn_noteReady (q := .ret .ok :: q)) 1).trans (h.clean.hostRun_ret .ok)))
  rw [Tile.ready_all, Eng.unmark_all, Eng.unmark_all] at hrun
  exact hrun

/-! ### How the commands begin (R371; log 14) -/

/-- A sub-command whose check fails returns the reason and does nothing else (R371). -/
theorem exec_of_runSub_error {i : Instr} {s : State} {e : TileId} {o : SubCommand} {x : ErrReason} (hk : s.kind e = .ct)
    (hi : exec i s = .next (onEngine e s (runSub o s))) (ho : o = .error x) : exec i s = .next (s.ret (.err x)) := by
  rw [hi, onEngine_pos hk, ho]; rfl

/-- A sub-command whose checks hold begins its operations, which its Ok follows. -/
theorem exec_of_runSub_ok {i : Instr} {s : State} {e : TileId} {o : SubCommand} {ops : List HostOp} (hk : s.kind e = .ct)
    (hi : exec i s = .next (onEngine e s (runSub o s))) (ho : o = .ok ops) : exec i s = .next (s.perform (ops, .ok)) := by
  rw [hi, onEngine_pos hk, ho]; rfl

/-- A sub-command whose checks hold is then at the start of its run. -/
theorem exec_of_runSub_during {i : Instr} {s : State} {e : TileId} {o : SubCommand} {ops : List HostOp} (hk : s.kind e = .ct)
    (hi : exec i s = .next (onEngine e s (runSub o s))) (ho : o = .ok ops) :
    exec i s = .next (s.during e (s.tile e) s.host.eng[e] (ops ++ .ret .ok :: s.host.queue) none) :=
  (exec_of_runSub_ok hk hi ho).trans (congrArg Host.Outcome.next (State.perform_during ops .ok))

/-- An initialisation returns at once where nothing is to be done, and else clears the mirror and begins (R284). -/
theorem exec_dmaInitialize {s : State} {e : TileId} {force : Nat} (hk : s.kind e = .ct) (hf : force < 2) :
    exec (.dmaInitialize e force) s = .next (if ((s.engine e).ready && force == 0) = true then s.ret .ok
      else (s.clearBds e).perform (initOps (s.layout e) e)) :=
  congrArg Host.Outcome.next ((onEngine_pos hk).trans (checked_ok (firstErr_pass (isFlag_iff.2 hf) rfl) s _))

/-! ### The statements -/

/-- Settles O53: the checks of each command, its one write, and the run of it turn by turn. -/
theorem channelCommands : Obligations.ChannelCommands := by
  intro s e hk L err begun noted
  refine ⟨fun c reset enable => ⟨fun hc => ?badChannel, fun hc hf => ?badFlag,
      fun hc hr he => ⟨?control, fun hL => ?reference⟩⟩,
    fun hclean hmap hfits c reset enable hr he => ?controlRun,
    fun c bd => ⟨fun hc => ?startBadChannel, fun hc hbd => ?badStartBd⟩,
    fun c bd => ⟨fun hbd => ⟨?start, fun hL => ?startReference, fun hclean hmap hfits => ?startRun⟩, ?sentinel,
      fun hclean => ?sentinelRun⟩⟩
  case badChannel => exact exec_of_runSub_error hk rfl (subCommand_err (firstErr_badChannel hc _) _)
  case badFlag =>
    exact exec_of_runSub_error hk rfl
      (subCommand_err ((firstErr_channel hc _).trans (firstErr_fail (mt flags_iff.1 hf))) _)
  case control => exact exec_of_runSub_ok hk rfl (controlOps_ok L e hc hr he)
  case reference => exact ⟨(channel_reference hL c).1, by rw [hL]; exact ctrlWord_reference_toNat hr he⟩
  case controlRun =>
    have h : ChannelRuns s e := ⟨hk, hclean, hmap, hfits⟩
    obtain ⟨hframe, hother, hmem, htile⟩ := State.during_facts (s := s) (e := e)
      (T := (s.tile e).writeCtrl L c (ctrlWord L reset enable)) (g := s.host.eng[e]) (r := some .ok) (Tile.writeCtrl_dm ..)
    rw [State.eng_set_self] at hframe
    exact ⟨_, _, _, exec_of_runSub_during hk rfl (controlOps_ok L e c.isLt hr he), h.hostRun_control rfl, rfl,
      ctrlWord_reset hfits hr he, ctrlWord_enable hfits hr he, hframe, hother, hmem,
      htile.trans (Tile.writeCtrl_ctrlWord hfits hr he _ c)⟩
  case startBadChannel => exact exec_of_runSub_error hk rfl (subCommand_err (firstErr_badChannel hc _) _)
  case badStartBd =>
    exact exec_of_runSub_error hk rfl
      (subCommand_err ((firstErr_channel hc _).trans (firstErr_fail (mt isBdOrSentinel_iff.1 hbd))) _)
  case start => exact exec_of_runSub_ok hk rfl (startBdOps_index L e c hbd)
  case startReference => exact ⟨(channel_reference hL c).2.1, by rw [hL]; exact startBdWord_reference_toNat hbd⟩
  case startRun =>
    have h : ChannelRuns s e := ⟨hk, hclean, hmap, hfits⟩
    have hexec := exec_of_runSub_during (i := .chSetStartBd e c.val bd) hk rfl (startBdOps_index L e c hbd)
    by_cases hidle : ((s.tile e).walker[c]).phase = .idle
    case pos =>
      obtain ⟨hframe, hother, hmem, htile⟩ := State.during_facts (s := s) (e := e)
        (T := (s.tile e).writeStartBd c (startBdWord L bd)) (g := some ((s.engine e).mark c (BitVec.ofNat 8 bd)))
        (r := some .ok) rfl
      exact ⟨_, _, hexec, h.hostRun_startBd rfl hidle _,
        fun _ => ⟨hframe, hother, hmem, _, startBdWord_field hfits hbd, htile⟩, fun hbusy => absurd hidle hbusy⟩
    case neg =>
      refine ⟨_, _, hexec, h.hostRun_startBd_busy rfl hidle 1, fun h => absurd h hidle, fun _ => ?_⟩
      rw [State.during_tile_self, State.eng_set_self, State.raise, hclean.1]
      rfl
  case sentinel => exact exec_of_runSub_ok hk rfl (startBdOps_sentinel L e c)
  case sentinelRun =>
    have hrun := hclean.hostRun_mark (e := e) (T := s.tile e) (g := s.host.eng[e]) (q := s.host.queue) (r := none)
      (c := c) 0xFF
    rw [State.during_tile_self (r := some .ok)] at hrun
    exact ⟨_, exec_of_runSub_during hk rfl (startBdOps_sentinel L e c), hrun⟩

/-- Settles O54: one channel, and then four, by the three turns that make a channel ready. -/
theorem channelResetRun : Obligations.ChannelResetRun := by
  intro s e hk
  refine ⟨fun k hbad => ?badChannel, fun hc hmap hfits c => ?one, fun hc hmap hfits => ?all⟩
  case badChannel =>
    exact congrArg Host.Outcome.next ((onEngine_pos hk).trans (checked_err (firstErr_badChannel hbad []) s _))
  case one =>
    have h : ChannelRuns s e := ⟨hk, hc, hmap, hfits⟩
    have hexec : exec (.chReset e c.val) s = .next (s.perform (readyOps (s.layout e) e c, .ok)) :=
      congrArg Host.Outcome.next ((onEngine_pos hk).trans
        ((checked_ok (firstErr_channel c.isLt []) s _).trans (congrArg s.perform (resetOps_val ..))))
    have hrun := (h.hostRun_ready (g := s.host.eng[e]) (r := none) (c := c) rfl 1).trans (hc.hostRun_ret (q := s.host.queue) .ok)
    rw [← State.perform_during] at hrun
    exact ⟨_, _, hexec, hrun, State.during_facts rfl⟩
  case all =>
    have h : ChannelRuns s e := ⟨hk, hc, hmap, hfits⟩
    have hexec : exec (.chResetAll e) s = .next (s.perform ((List.finRange 4).flatMap (readyOps (s.layout e) e), .ok)) :=
      congrArg Host.Outcome.next ((onEngine_pos hk).trans (congrArg s.perform (resetAllOps_eq ..)))
    have hrun := (h.hostRun_readyAll (g := s.host.eng[e]) (r := none) rfl (List.finRange 4) 1).trans
      (hc.hostRun_ret (q := s.host.queue) .ok)
    rw [← State.perform_during, Tile.ready_all, Eng.unmark_all] at hrun
    exact ⟨_, _, hexec, hrun, State.during_facts rfl⟩

/-- Settles O55: the mirror is cleared at once, then all channels are made ready, the start BDs marked again and the engine
marked ready. -/
theorem initializeRun : Obligations.InitializeRun := by
  intro s e force hk
  refine ⟨fun hf => ?badFlag, fun hf hready => ?ready, fun hf hforce hc hmap hfits => ?run⟩
  case badFlag =>
    exact congrArg Host.Outcome.next ((onEngine_pos hk).trans
      (checked_err (firstErr_fail fun h => Nat.not_lt.2 hf (isFlag_iff.1 h)) s _))
  case ready =>
    rw [exec_dmaInitialize hk (by omega), if_pos (by rw [hready, hf]; rfl)]; rfl
  case run =>
    have h : ChannelRuns s e := ⟨hk, hc, hmap, hfits⟩
    have hnot : ¬ ((s.engine e).ready && force == 0) = true := by
      rcases hforce with rfl | hready
      · rw [Bool.and_eq_true]; exact fun h => absurd h.2 (by decide)
      · rw [hready]; exact Bool.false_ne_true
    have hexec := exec_dmaInitialize hk hf
    rw [if_neg hnot, initOps_eq, State.clearBds, State.setEngine_perform, List.append_assoc, List.append_assoc] at hexec
    exact ⟨_, _, hexec, h.hostRun_init _ _, State.during_facts rfl⟩

end Sys2Proof.Machine
end

section
/-! PROOF. The writes of the switch registers (O30), the configuration faults of the switch and its circuit step (O40, O41).
The bad masters and the targets of a slave are lists in the model; what is in them is said once, in the words of the rules. -/

namespace Sys2Proof.Machine

/-! ### Register writes (R301, R303, R341) -/

/-- Where the switch registers stand in `L_REF` (R103). -/
theorem switch_reference {L : Config.Layout} {kind : TileKind} (hL : L = .reference kind) (n k : Nat) :
    mcfgOff L n = 0x3F000 + 4 * n ∧ scfgOff L n = 0x3F100 + 4 * n ∧ slotOff L n k = 0x3F200 + 0x10 * n + 4 * k := by
  subst hL; exact ⟨rfl, rfl, rfl⟩

/-- Settles O30: the index check passes, and each write is a change of one cell of its tile. -/
theorem switchRegisterWrites : Obligations.SwitchRegisterWrites := by
  intro s t v L
  refine ⟨fun m hm => ⟨rfl, fun hL => (switch_reference hL m 0).1, ?master⟩,
    fun p hp => ⟨⟨rfl, fun hL => (switch_reference hL p 0).2.1, ?slave⟩,
      fun k => ⟨rfl, fun hL => (switch_reference hL p k).2.2, ?slot⟩⟩⟩
  case master =>
    exact next_mod (fun T => { T with mcfg := T.mcfg.set m ⟨v, true⟩ }) 0 (exec_of_below hm rfl) (fun _ => rfl) rfl
  case slave =>
    exact next_mod (fun T => { T with scfg := T.scfg.set p ⟨v, true⟩ }) 0 (exec_of_below hp rfl) (fun _ => rfl) rfl
  case slot =>
    exact next_mod (fun T => { T with slot := T.slot.set p (T.slot[p].set k ⟨v, true⟩) }) 0 (exec_of_below hp rfl)
      (fun _ => rfl) rfl

/-! ### Configuration words (R130) -/

/-- The configuration of a master as a number (R111, R130). -/
theorem mcfgConfig_toNat (L : Config.Layout) (v : Word) : (mcfgConfig L v).toNat = v.toNat / 2 ^ L.mcfgConfig % 128 :=
  getField_toNat v L.mcfgConfig 7

/-- The arbiter of a packet master is the low three bits of its configuration (R130). -/
theorem mcfgArb_toNat (L : Config.Layout) (v : Word) : (mcfgArb L v).toNat = v.toNat / 2 ^ L.mcfgConfig % 8 := by
  rw [mcfgArb, BitVec.extractLsb'_toNat, mcfgConfig_toNat, Nat.shiftRight_zero]
  exact Nat.mod_mod_of_dvd _ (by decide)

theorem Tile.circuitMaster_iff {T : Tile} {q : Config.Params} {m : MasterId} :
    T.circuitMaster q m = true ↔ (T.mcfg[m]).val.getLsbD (T.layout q).mcfgEnable = true
      ∧ (T.mcfg[m]).val.getLsbD (T.layout q).mcfgPacket = false := by
  simp only [Tile.circuitMaster, masterEnable, masterPacket, getBit, Bool.and_eq_true, Bool.not_eq_true']

theorem Tile.packetMaster_iff {T : Tile} {q : Config.Params} {m : MasterId} :
    T.packetMaster q m = true ↔ (T.mcfg[m]).val.getLsbD (T.layout q).mcfgEnable = true
      ∧ (T.mcfg[m]).val.getLsbD (T.layout q).mcfgPacket = true := by
  simp only [Tile.packetMaster, masterEnable, masterPacket, getBit, Bool.and_eq_true]

/-! ### Configuration faults (R310, R355) -/

/-- The fault of a badly configured master: its source in circuit mode, its arbiter in packet mode. -/
def Tile.masterFault (T : Tile) (q : Config.Params) (m : MasterId) : Fault :=
  if (T.mcfg[m]).val.getLsbD (T.layout q).mcfgPacket then .arbiterRangeMaster m else .circuitSource m

/-- The faults the switch may raise are those of the badly configured masters. -/
theorem Tile.mem_switchFaults {T : Tile} {q : Config.Params} {f : Fault} :
    f ∈ T.switchFaults q ↔ ∃ m, T.BadMaster q m ∧ T.masterFault q m = f := by
  simp only [Tile.switchFaults, List.mem_append, List.mem_map, List.mem_filter, mem_masters, Bool.and_eq_true,
    decide_eq_true_eq, Tile.circuitMaster_iff, Tile.packetMaster_iff, mcfgConfig_toNat, mcfgArb_toNat]
  constructor
  · rintro (⟨m, ⟨hm, ⟨hen, hmode⟩, hbad⟩, rfl⟩ | ⟨m, ⟨hm, ⟨hen, hmode⟩, hbad⟩, rfl⟩)
    · exact ⟨m, ⟨hm, hen, by rw [hmode]; exact hbad⟩, by rw [Tile.masterFault, hmode]; rfl⟩
    · exact ⟨m, ⟨hm, hen, by rw [hmode]; exact hbad⟩, by rw [Tile.masterFault, hmode]; rfl⟩
  · rintro ⟨m, ⟨hm, hen, hbad⟩, rfl⟩
    unfold Tile.masterFault
    split at hbad
    case isTrue hmode => rw [if_pos hmode]; exact .inr ⟨m, ⟨hm, ⟨hen, hmode⟩, hbad⟩, rfl⟩
    case isFalse hmode =>
      rw [if_neg hmode]; exact .inl ⟨m, ⟨hm, ⟨hen, Bool.not_eq_true _ ▸ hmode⟩, hbad⟩, rfl⟩

/-- A configuration fault names its master. -/
theorem Tile.masterFault_names {T : Tile} {q : Config.Params} {m m' : MasterId}
    (h : T.masterFault q m = .circuitSource m' ∨ T.masterFault q m = .arbiterRangeMaster m') : m = m' := by
  unfold Tile.masterFault at h
  split at h
  · simpa using h
  · simpa using h

/-- Where a master is badly configured and the draw does not say that none raises its fault, one raises it. -/
theorem switchStep_faults {t : TileId} {s : State} {k : State → State} (hbad : ∃ m, (s.tile t).BadMaster s.params m)
    (hdraw : Config.freeBit s.draws = true) :
    ∃ m, (s.tile t).BadMaster s.params m ∧ switchStep t s k = s.raise ((s.tile t).masterFault s.params m) := by
  obtain ⟨m, hm⟩ := hbad
  have hmem := Tile.mem_switchFaults.2 ⟨m, hm, rfl⟩
  unfold switchStep
  split
  case h_1 hnone => rw [hnone] at hmem; exact absurd hmem List.not_mem_nil
  case h_2 f fs hfaults =>
    rw [if_pos hdraw]
    have hlt : Config.freeNat (s.draws + 1) % (fs.length + 1) < (f :: fs).length := Nat.mod_lt _ (Nat.succ_pos fs.length)
    have hraised : (f :: fs).getD (Config.freeNat (s.draws + 1) % (fs.length + 1)) f ∈ (s.tile t).switchFaults s.params := by
      rw [hfaults, List.getD_eq_getElem _ _ hlt]
      exact List.getElem_mem _
    obtain ⟨m', hm', hf⟩ := Tile.mem_switchFaults.1 hraised
    exact ⟨m', hm', by rw [hf]⟩

/-- Where no master is badly configured, or the draw says that none raises its fault, the switch takes its step. -/
theorem switchStep_runs {t : TileId} {s : State}
    (h : (¬ ∃ m, (s.tile t).BadMaster s.params m) ∨ Config.freeBit s.draws = false) :
    ∃ n ≤ 1, ∀ k, switchStep t s k = k (s.drew n) := by
  rcases hfaults : (s.tile t).switchFaults s.params with _ | ⟨f, fs⟩
  · exact ⟨0, by decide, fun k => switchStep_none hfaults⟩
  · obtain ⟨m, hm, -⟩ := Tile.mem_switchFaults.1 (hfaults ▸ List.mem_cons_self : f ∈ (s.tile t).switchFaults s.params)
    have hdraw : Config.freeBit s.draws = false := h.resolve_left fun hnone => hnone ⟨m, hm⟩
    exact ⟨1, le_rfl, fun k => by simp only [switchStep, hfaults, hdraw, Bool.false_eq_true, if_false]⟩

/-- A step of the switch that raises nothing, or a fault that no master's configuration gives. -/
def RaisesNoMaster (s s' : State) : Prop :=
  ∀ m, s'.faults ≠ s.faults ++ [.circuitSource m] ∧ s'.faults ≠ s.faults ++ [.arbiterRangeMaster m]

theorem RaisesNoMaster.same {s s' : State} (h : s'.faults = s.faults := by rfl) : RaisesNoMaster s s' := fun m => by
  rw [h]; exact ⟨by simp, by simp⟩

theorem RaisesNoMaster.raise {s : State} {f : Fault} (h : ∀ m, f ≠ .circuitSource m ∧ f ≠ .arbiterRangeMaster m) :
    RaisesNoMaster s (s.raise f) := fun m => by simpa using h m

theorem circuitMove_raisesNoMaster (t : TileId) (p : SlaveId) (s : State) : RaisesNoMaster s (circuitMove t p s) := by
  unfold circuitMove
  split
  · exact .same
  · exact .same

/-- A packet's start raises faults of slots and routes only (R350, R352, R355). -/
theorem startPacket_raisesNoMaster (t : TileId) (p : SlaveId) (id : BitVec 5) (s : State) :
    RaisesNoMaster s (startPacket t p id s) := by
  have other {f : Fault} (h : ∀ m, f ≠ .circuitSource m ∧ f ≠ .arbiterRangeMaster m) := RaisesNoMaster.raise (s := s) h
  simp only [startPacket]
  split
  · exact other fun m => ⟨nofun, nofun⟩
  · exact other fun m => ⟨nofun, nofun⟩
  · split
    · exact other fun m => ⟨nofun, nofun⟩
    · split
      · exact other fun m => ⟨nofun, nofun⟩
      · exact .same

theorem packetStart_raisesNoMaster (t : TileId) (p : SlaveId) (s : State) : RaisesNoMaster s (packetStart t p s) := by
  simp only [packetStart]
  split
  · exact .same
  · split
    · exact startPacket_raisesNoMaster t p _ s
    · exact .same

theorem packetForward_raisesNoMaster (t : TileId) (p : SlaveId) (s : State) : RaisesNoMaster s (packetForward t p s) := by
  simp only [packetForward]
  split
  · split
    · exact .same
    · exact .same
  · exact .same

/-- A configuration fault that a switch step raises is that of a badly configured master. -/
theorem badMaster_of_switchStep {t : TileId} {s : State} {k : State → State} {m : MasterId}
    (hk : ∀ s, RaisesNoMaster s (k s))
    (h : (switchStep t s k).faults = s.faults ++ [.circuitSource m]
      ∨ (switchStep t s k).faults = s.faults ++ [.arbiterRangeMaster m]) : (s.tile t).BadMaster s.params m := by
  rcases switchStep_cases t s k with e | e | ⟨f, e, hf⟩
  · exact absurd h (by rw [e]; exact not_or.2 (hk s m))
  · exact absurd h (by rw [e]; exact not_or.2 (hk (s.drew 1) m))
  · obtain ⟨m', hbad, rfl⟩ := Tile.mem_switchFaults.1 hf
    rw [e, State.raise_faults, List.append_cancel_left_eq, List.append_cancel_left_eq, List.singleton_inj,
      List.singleton_inj] at h
    exact Tile.masterFault_names h ▸ hbad

/-- The three steps of the switch are switch steps, none of which raises a configuration fault of its own. -/
theorem exec_switch {i : Instr} {t : TileId} {p : SlaveId}
    (h : i ∈ ([.swCircuit t p, .swPktStart t p, .swPktForward t p] : List Instr)) :
    ∃ k, (∀ s, exec i s = .next (switchStep t s k)) ∧ ∀ s, RaisesNoMaster s (k s) := by
  simp only [List.mem_cons, List.not_mem_nil, or_false] at h
  obtain rfl | rfl | rfl := h
  · exact ⟨_, fun _ => rfl, circuitMove_raisesNoMaster t p⟩
  · exact ⟨_, fun _ => rfl, packetStart_raisesNoMaster t p⟩
  · exact ⟨_, fun _ => rfl, packetForward_raisesNoMaster t p⟩

/-- Settles O40. -/
theorem switchConfigurationFaults : Obligations.SwitchConfigurationFaults := by
  intro s t p T i hi
  obtain ⟨k, hexec, hk⟩ := exec_switch hi
  refine ⟨fun hbad => ?raised, fun s' m hnext hfault => ?only⟩
  case raised =>
    refine (Bool.eq_false_or_eq_true (Config.freeBit s.draws)).symm.imp_right fun hdraw => ?_
    obtain ⟨m, hm, hstep⟩ := switchStep_faults (k := k) hbad hdraw
    exact ⟨m, hm, by rw [hexec, hstep]; rfl⟩
  case only =>
    obtain rfl : switchStep t s k = s' := Host.Outcome.next.inj ((hexec s).symm.trans hnext)
    exact badMaster_of_switchStep hk hfault

/-! ### The circuit step (R310 to R313, R358) -/

/-- The circuit masters that name slave `p` (R310). -/
theorem Tile.mem_circuitTargets {T : Tile} {q : Config.Params} {p : SlaveId} {m : MasterId} :
    m ∈ T.circuitTargets q p ↔ m.val < q.nMasters T.ref.kind
      ∧ (T.mcfg[m]).val.getLsbD (T.layout q).mcfgEnable = true ∧ (T.mcfg[m]).val.getLsbD (T.layout q).mcfgPacket = false
      ∧ (T.mcfg[m]).val.toNat / 2 ^ (T.layout q).mcfgConfig % 128 = p.val := by
  simp only [Tile.circuitTargets, List.mem_filter, mem_masters, Bool.and_eq_true, Tile.circuitMaster_iff, beq_iff_eq,
    mcfgConfig_toNat, and_assoc]

/-- The circuit step of a slave is enabled where the slave is in circuit mode with no packet in flight, and has a target, all
of whose targets have space (R310, R358). -/
theorem Tile.circuitReady_iff {T : Tile} {q : Config.Params} {p : SlaveId} :
    T.circuitReady q p = true ↔ p.val < q.nSlaves T.ref.kind ∧ (T.scfg[p]).val.getLsbD (T.layout q).scfgEnable = true
      ∧ (T.scfg[p]).val.getLsbD (T.layout q).scfgPacket = false ∧ T.pktRoute[p] = none
      ∧ (∃ m, m ∈ T.circuitTargets q p) ∧ ∀ m, m ∈ T.circuitTargets q p → (T.outQ[m]).length < q.portDepth := by
  simp only [Tile.circuitReady, Tile.slaveIn, slaveEnable, slavePacket, getBit, Bool.and_eq_true, decide_eq_true_eq,
    beq_iff_eq, Option.isNone_iff_eq_none, Bool.not_eq_true', List.isEmpty_eq_false_iff_exists_mem, Tile.spaceAll_iff,
    and_assoc]

/-- A circuit word goes from the head of its slave's queue to every target (R310, R313). -/
theorem circuitMove_cons {t : TileId} {p : SlaveId} {s : State} {w : StreamWord} {rest : List StreamWord}
    (hq : (s.tile t).inQ[p] = w :: rest) (hr : (s.tile t).circuitReady s.params p = true) :
    circuitMove t p s = s.modTile t fun T => (T.popIn p).pushOut (T.circuitTargets s.params p) w := by
  simp only [circuitMove, hq, hr]

/-- No word moves from an empty queue, or where the step is not enabled. -/
theorem circuitMove_stays {t : TileId} {p : SlaveId} {s : State}
    (h : (s.tile t).inQ[p] = [] ∨ ¬ (s.tile t).circuitReady s.params p = true) : circuitMove t p s = s := by
  unfold circuitMove
  split
  case h_1 w rest hq hr => exact absurd h (not_or.2 ⟨by rw [hq]; exact List.cons_ne_nil _ _, not_not.2 hr⟩)
  case h_2 => rfl

/-- Settles O41: the switch takes its step, and the model's targets and readiness are those of the rules. -/
theorem circuitStep : Obligations.CircuitStep := by
  intro s t p T L hcalm isTarget ready
  have target {m : MasterId} : m ∈ T.circuitTargets s.params p ↔ isTarget m := Tile.mem_circuitTargets
  have enabled : T.circuitReady s.params p = true ↔ ready := by
    rw [Tile.circuitReady_iff]; simp only [target]; rfl
  obtain ⟨n, hn, hstep⟩ := switchStep_runs hcalm
  have hexec : exec (.swCircuit t p) s = .next (circuitMove t p (s.drew n)) := congrArg Host.Outcome.next (hstep _)
  refine ⟨fun hL => by rw [hL]; exact ⟨rfl, rfl, rfl, rfl, rfl⟩, fun w rest hq hr => ?moves, fun hno => ⟨n, hn, ?stays⟩⟩
  case moves =>
    rw [circuitMove_cons (s := s.drew n) hq (enabled.2 hr)] at hexec
    obtain ⟨s', hnext, hframe, hmem, htile⟩ :=
      next_mod (fun T => (T.popIn p).pushOut (T.circuitTargets s.params p) w) n hexec (fun _ => by simp) rfl
    have hout (m : MasterId) :
        (s'.tile t).outQ[m] = if m ∈ T.circuitTargets s.params p then T.outQ[m] ++ [w] else T.outQ[m] := by
      rw [htile, Tile.pushOut_at]; rfl
    refine ⟨s', hnext, hframe, hmem, ?_, fun m hm => ?_, fun m hm => ?_⟩
    · rw [htile]
      simp only [Tile.pushOut, Tile.popIn]
      rw [hq]; rfl
    · rw [hout, if_pos (target.2 hm)]
    · rw [hout, if_neg (mt target.1 hm)]
  case stays =>
    rw [hexec, circuitMove_stays (s := s.drew n) (hno.imp_right (mt enabled.1))]; rfl

end Sys2Proof.Machine
end

section
/-! PROOF. The stream-switch commands: the pure ones and the port tables (O56), and those that expand into register writes
(O57).  A command is its list of checks, of which the first that fails gives the reason, and its list of writes. -/

namespace Sys2Proof.Machine

open Config (Params PortTable)

/-! ### Ports (R305, R306) -/

theorem portId_of_lt {q : Params} {k : TileKind} {d : PortDir} {c : PortClass} {i : Nat}
    (h : i < ((q.ports k d).range c).count) : portId q k d c i = some (((q.ports k d).range c).first + i) := if_pos h

theorem portId_of_le {q : Params} {k : TileKind} {d : PortDir} {c : PortClass} {i : Nat}
    (h : ((q.ports k d).range c).count ≤ i) : portId q k d c i = none := if_neg (Nat.not_lt.2 h)

/-- Parameters with the reference address map have the reference port tables. -/
theorem ports_of_referenceMap {q : Params} (hq : q.ReferenceMap) (k : TileKind) (d : PortDir) :
    q.ports k d = .reference k d := by
  obtain ⟨-, -, -, -, hmct, hsct, hmbt, hsbt⟩ := hq
  cases k with
  | ct =>
    cases d with
    | master => exact hmct
    | slave => exact hsct
  | bt =>
    cases d with
    | master => exact hmbt
    | slave => exact hsbt

/-! ### Words of fields (R110) -/

/-- A field above the highest bit of the rest of its word adds its value at its place. -/
theorem setField_or_toNat {v lsb w n : Nat} {x : Word} (h : lsb + w ≤ 32) (hv : v < 2 ^ w) (hx : x.toNat = n)
    (hn : n < 2 ^ lsb) : (setField v lsb w ||| x).toNat = v * 2 ^ lsb + n := by
  rw [BitVec.toNat_or, setField_toNat h, Nat.mod_eq_of_lt hv, hx, Nat.mul_comm]
  exact (Nat.two_pow_add_eq_or_of_lt hn v).symm

/-- The lowest field of a word. -/
theorem setField_zero_toNat {v w : Nat} (h : w ≤ 32) (hv : v < 2 ^ w) : (setField v 0 w).toNat = v := by
  rw [setField_toNat (by omega), Nat.mod_eq_of_lt hv, Nat.pow_zero, Nat.mul_one]

/-- The word of `ss.mstrPktConfig` (R344). -/
theorem mstrPktConfigWord_toNat {drop mask arb : Nat} (hd : drop < 2) (hm : mask < 16) (ha : arb < 8) :
    (mstrPktConfigWord drop mask arb).toNat = 128 * drop + 8 * mask + arb := by
  have low : (setField mask 3 4 ||| setField arb 0 3).toNat = mask * 2 ^ 3 + arb :=
    setField_or_toNat (by decide) hm (setField_zero_toNat (by decide) ha) ha
  rw [mstrPktConfigWord, BitVec.or_assoc, setField_or_toNat (by decide) hd low (by omega)]
  omega

/-- The word of an enabled master in `L_REF` (R130, R307): bit 7 of its configuration stands above the other seven. -/
theorem mcfgWord_reference_toNat (k : TileKind) {pktEn cfg : Nat} (hp : pktEn < 2) (hc : cfg < 256) :
    (mcfgWord (.reference k) pktEn cfg).toNat = 0x80000000 + pktEn * 2 ^ 30 + cfg := by
  have config : (setField cfg 0 7).toNat = cfg % 2 ^ 7 := by
    rw [setField_toNat (by decide), Nat.pow_zero, Nat.mul_one]
  have low : (setField (cfg / 2 ^ 7) 7 1 ||| setField cfg 0 7).toNat = cfg := by
    rw [setField_or_toNat (by decide) (by omega) config (by omega)]; omega
  have packet := setField_or_toNat (lsb := 30) (w := 1) (by decide) hp low (by omega)
  have enable := setField_or_toNat (lsb := 31) (w := 1) (v := 1) (by decide) (by decide) packet (by omega)
  rw [← BitVec.or_assoc, ← BitVec.or_assoc] at enable
  exact enable.trans (by omega)

/-- The word of an enabled slave in `L_REF` (R131, R308). -/
theorem scfgWord_reference_toNat (k : TileKind) {pktEn : Nat} (hp : pktEn < 2) :
    (scfgWord (.reference k) pktEn).toNat = 0x80000000 + pktEn * 2 ^ 30 := by
  have packet : (setField pktEn 30 1).toNat = pktEn * 2 ^ 30 := by
    rw [setField_toNat (by decide), Nat.mod_eq_of_lt (show pktEn < 2 ^ 1 from hp)]
  have enable := setField_or_toNat (lsb := 31) (w := 1) (v := 1) (by decide) (by decide) packet (by omega)
  exact enable.trans (by omega)

/-- The word of an enabled slot in `L_REF` (R132, R343). -/
theorem slotWord_reference_toNat (k : TileKind) {id mask msel arb : Nat} (hi : id < 32) (hm : mask < 32) (hs : msel < 4)
    (ha : arb < 8) :
    (slotWord (.reference k) id mask msel arb).toNat = id * 2 ^ 24 + mask * 2 ^ 16 + 2 ^ 8 + msel * 2 ^ 4 + arb := by
  have arbiter : (setField arb 0 3).toNat = arb := setField_zero_toNat (by decide) ha
  have select := setField_or_toNat (lsb := 4) (w := 2) (by decide) hs arbiter (by omega)
  have enable := setField_or_toNat (lsb := 8) (w := 1) (v := 1) (by decide) (by decide) select (by omega)
  have masked := setField_or_toNat (lsb := 16) (w := 5) (by decide) hm enable (by omega)
  have word := setField_or_toNat (lsb := 24) (w := 5) (by decide) hi masked (by omega)
  rw [← BitVec.or_assoc, ← BitVec.or_assoc, ← BitVec.or_assoc] at word
  exact word.trans (by omega)

/-! ### The pure commands -/

theorem exec_ssPortId_some {k : TileKind} {d : PortDir} {c : PortClass} {i n : Nat} {s : State}
    (h : portId s.params k d c i = some n) : exec (.ssPortId k d c i) s = .next (s.ret (.value n)) := by
  change execSsPortId k d c i s = _
  rw [execSsPortId, h]

theorem exec_ssPortId_none {k : TileKind} {d : PortDir} {c : PortClass} {i : Nat} {s : State}
    (h : portId s.params k d c i = none) : exec (.ssPortId k d c i) s = .next (s.ret (.err .badPort)) := by
  change execSsPortId k d c i s = _
  rw [execSsPortId, h]

/-- Settles O56: the port tables are read off the reference ones. -/
theorem pureSwitchCommands : Obligations.PureSwitchCommands := by
  refine ⟨?portId, ?mstrPktConfig, ?tables, by decide⟩
  case portId =>
    intro s k d c i ret ports
    exact ⟨fun h => exec_ssPortId_some (portId_of_lt h), fun h => exec_ssPortId_none (portId_of_le h)⟩
  case mstrPktConfig =>
    intro s drop mask arb ret
    have fields : (decide (mask < 16) && decide (arb < 8)) = true ↔ mask < 16 ∧ arb < 8 := by
      rw [Bool.and_eq_true, decide_eq_true_iff, decide_eq_true_iff]
    refine ⟨fun hd => congrArg Host.Outcome.next (checked_err ?flag s _),
      fun hd hw => congrArg Host.Outcome.next (checked_err ?wide s _), fun hd hm ha => ?word⟩
    case flag => exact firstErr_fail (mt isFlag_iff.1 (Nat.not_lt.2 hd))
    case wide => exact firstErr_pass (isFlag_iff.2 hd) (firstErr_fail (mt fields.1 hw))
    case word =>
      rw [← mstrPktConfigWord_toNat hd hm ha]
      exact congrArg Host.Outcome.next
        (checked_ok (firstErr_pass (isFlag_iff.2 hd) (firstErr_pass (fields.2 ⟨hm, ha⟩) rfl)) s _)
  case tables =>
    intro q hq k d
    rw [Params.nMasters, Params.nSlaves, ports_of_referenceMap hq, ports_of_referenceMap hq, ports_of_referenceMap hq]
    refine ⟨?rows, fun c => ?absent, ?masters, ?slaves⟩
    case rows => cases k <;> cases d <;> decide
    case absent => cases k <;> cases d <;> cases c <;> decide
    case masters => cases k <;> rfl
    case slaves => cases k <;> rfl

/-! ### Checks and sub-commands (R307 to R309, R343) -/

section

variable {q : Params} {k : TileKind} {d : PortDir} {c : PortClass} {i n : Nat} {cs : List (Bool × ErrReason)}

/-- A port the tile lacks fails its check (R306). -/
theorem firstErr_badPort (h : portId q k d c i = none) : firstErr (portCheck q k d c i :: cs) = some .badPort :=
  firstErr_fail (by rw [h]; exact Bool.false_ne_true)

theorem firstErr_port (h : portId q k d c i = some n) : firstErr (portCheck q k d c i :: cs) = firstErr cs :=
  firstErr_pass (by rw [h]; rfl) rfl

theorem portNo_of_some (h : portId q k d c i = some n) : portNo q k d c i = n := by rw [portNo, h]; rfl

end

section

variable {i : Instr} {s : State} {cs : List (Bool × ErrReason)} {ops : List HostOp}

/-- A command that is one sub-command returns the reason of its first failing check and changes nothing else (R371). -/
theorem exec_sub_err {r : ErrReason} (h : firstErr cs = some r) (hx : exec i s = .next (runSub (subCommand cs ops) s)) :
    exec i s = .next (s.ret (.err r)) := by rw [hx, subCommand_err h]; rfl

/-- With every check met its operations are queued, then its Ok (R371). -/
theorem exec_sub_begins (h : firstErr cs = none) (hx : exec i s = .next (runSub (subCommand cs ops) s)) :
    exec i s = .next (s.begin (ops ++ [.ret .ok])) := by rw [hx, subCommand_ok h]; rfl

end

/-- The checks of a slot's fields (R343). -/
theorem slotFields_iff {id mask msel arb : Nat} :
    (decide (id < 32) && decide (mask < 32) && decide (msel < 4) && decide (arb < 8)) = true
      ↔ id < 32 ∧ mask < 32 ∧ msel < 4 ∧ arb < 8 := by
  simp only [Bool.and_eq_true, decide_eq_true_eq, and_assoc]

theorem masterOps_ok {q : Params} {k : TileKind} {cls : PortClass} {i m pktEn cfg : Nat} (t : TileId)
    (h : portId q k .master cls i = some m) (hp : pktEn < 2) (hc : cfg < 256) :
    masterOps q t k cls i 1 pktEn cfg = .ok [.bus t 32 true (mcfgOff (q.layout k) m) (mcfgWord (q.layout k) pktEn cfg)] := by
  have checks : firstErr [portCheck q k .master cls i, (isFlag 1 && isFlag pktEn, .badFlag),
      (decide (cfg < 256), .fieldTooWide)] = none :=
    (firstErr_port h).trans (firstErr_pass (flags_iff.2 ⟨by decide, hp⟩) (firstErr_pass (decide_eq_true hc) rfl))
  rw [masterOps, subCommand_ok checks, portNo_of_some h]; rfl

theorem slaveOps_ok {q : Params} {k : TileKind} {cls : PortClass} {i p pktEn : Nat} (t : TileId)
    (h : portId q k .slave cls i = some p) (hp : pktEn < 2) :
    slaveOps q t k cls i 1 pktEn = .ok [.bus t 32 true (scfgOff (q.layout k) p) (scfgWord (q.layout k) pktEn)] := by
  have checks : firstErr [portCheck q k .slave cls i, (isFlag 1 && isFlag pktEn, .badFlag)] = none :=
    (firstErr_port h).trans (firstErr_pass (flags_iff.2 ⟨by decide, hp⟩) rfl)
  rw [slaveOps, subCommand_ok checks, portNo_of_some h]; rfl

/-- Settles O57: the checks of each command in order, and the writes it expands into. -/
theorem switchCommands : Obligations.SwitchCommands := by
  intro s t cls i L id err begun wr mword sword kword
  refine ⟨?master, ?slave, ?slot, ?connect, fun hL => ?reference⟩
  case master =>
    intro en pktEn cfg x
    refine ⟨fun hno => exec_sub_err (firstErr_badPort hno) rfl, fun m hm => ?_⟩
    refine ⟨fun hf => exec_sub_err ((firstErr_port hm).trans ?flag) rfl,
      fun he hp hc => exec_sub_err ((firstErr_port hm).trans ?wide) rfl,
      fun he hp hc => (exec_sub_begins ((firstErr_port hm).trans ?checks) rfl).trans ?writes⟩
    case flag => exact firstErr_fail (mt flags_iff.1 hf)
    case wide => exact firstErr_pass (flags_iff.2 ⟨he, hp⟩) (firstErr_fail fun h => Nat.not_lt.2 hc (of_decide_eq_true h))
    case checks => exact firstErr_pass (flags_iff.2 ⟨he, hp⟩) (firstErr_pass (decide_eq_true hc) rfl)
    case writes => rw [portNo_of_some hm]; rfl
  case slave =>
    intro en pktEn x
    refine ⟨fun hno => exec_sub_err (firstErr_badPort hno) rfl, fun p hp => ?_⟩
    refine ⟨fun hf => exec_sub_err ((firstErr_port hp).trans ?flag) rfl,
      fun he hpkt => (exec_sub_begins ((firstErr_port hp).trans ?checks) rfl).trans ?writes⟩
    case flag => exact firstErr_fail (mt flags_iff.1 hf)
    case checks => exact firstErr_pass (flags_iff.2 ⟨he, hpkt⟩) rfl
    case writes => rw [portNo_of_some hp]; rfl
  case slot =>
    intro k en sid mask msel arb x fit
    refine ⟨fun hno => exec_sub_err (firstErr_badPort hno) rfl, fun p hp => ?_⟩
    refine ⟨fun hk => exec_sub_err ((firstErr_port hp).trans ?index) rfl,
      fun hk he => exec_sub_err ((firstErr_port hp).trans (firstErr_pass (decide_eq_true hk) ?flag)) rfl,
      fun hk he hf => exec_sub_err ((firstErr_port hp).trans (firstErr_pass (decide_eq_true hk) ?wide)) rfl,
      fun hk he hf =>
        (exec_sub_begins ((firstErr_port hp).trans (firstErr_pass (decide_eq_true hk) ?checks)) rfl).trans ?writes⟩
    case index => exact firstErr_fail fun h => Nat.not_lt.2 hk (of_decide_eq_true h)
    case flag => exact firstErr_fail (mt isFlag_iff.1 (Nat.not_lt.2 he))
    case wide => exact firstErr_pass (isFlag_iff.2 he) (firstErr_fail (mt slotFields_iff.1 hf))
    case checks => exact firstErr_pass (isFlag_iff.2 he) (firstErr_pass (slotFields_iff.2 hf) rfl)
    case writes => rw [portNo_of_some hp]; rfl
  case connect =>
    intro mcls mi enSlave x
    refine ⟨fun hno => congrArg Host.Outcome.next (checked_err ?port s _), fun p m hp hm => ?_⟩
    case port =>
      rcases hslave : id .slave cls i with _ | p
      · exact firstErr_badPort hslave
      · exact (firstErr_port hslave).trans (firstErr_badPort (hno.resolve_left (by rw [hslave]; exact Option.some_ne_none p)))
    refine ⟨fun he => congrArg Host.Outcome.next (checked_err ((firstErr_port hp).trans ((firstErr_port hm).trans ?flag)) s _),
      fun he hp' => congrArg Host.Outcome.next
        ((checked_ok ((firstErr_port hp).trans ((firstErr_port hm).trans ?checks)) s _).trans ?writes)⟩
    case flag => exact firstErr_fail (mt isFlag_iff.1 (Nat.not_lt.2 he))
    case checks => exact firstErr_pass (isFlag_iff.2 he) rfl
    case writes =>
      rw [portNo_of_some hp, masterOps_ok t hm (by decide) hp', slaveOps_ok t hp (by decide)]
      split <;> rfl
  case reference =>
    have hm : mword = mcfgWord (.reference (s.kind t)) := by rw [← hL]; rfl
    have hs : sword = scfgWord (.reference (s.kind t)) := by rw [← hL]; rfl
    have hk : kword = slotWord (.reference (s.kind t)) := by rw [← hL]; rfl
    rw [hm, hs, hk, hL]
    exact ⟨rfl, rfl, rfl, rfl, rfl, rfl, rfl, fun _ _ => mcfgWord_reference_toNat _, fun _ => scfgWord_reference_toNat _,
      fun _ _ _ _ => slotWord_reference_toNat _⟩

end Sys2Proof.Machine
end

section
/-! PROOF. The packet steps of the switch: a packet's start (O42) and the forwarding of its words (O43).  What a slot asks for,
where a packet goes and when a step is enabled is said once, in the words of the rules. -/

namespace Sys2Proof.Machine

/-! ### Slots (R132, R350) -/

/-- A field of a register as a quotient (R111). -/
theorem getField_eq_ofNat (x : Word) (lsb w : Nat) : getField x lsb w = BitVec.ofNat w (x.toNat / 2 ^ lsb) := by
  rw [getField, Nat.shiftRight_eq_div_pow]

/-- The lowest index that passes a test comes first among those that do. -/
theorem filter_finRange_eq_cons {n : Nat} {f : Fin n → Bool} {k : Fin n} (hk : f k = true) (hlow : ∀ j, j < k → ¬ f j = true) :
    ∃ ks, (List.finRange n).filter f = k :: ks := by
  have hsorted : ((List.finRange n).filter f).Pairwise (· < ·) := (List.pairwise_lt_finRange n).filter f
  have hmem : k ∈ (List.finRange n).filter f := List.mem_filter.2 ⟨List.mem_finRange k, hk⟩
  rcases hlist : (List.finRange n).filter f with _ | ⟨j, ks⟩
  · exact absurd (hlist ▸ hmem) List.not_mem_nil
  · rw [hlist] at hsorted hmem
    rcases List.mem_cons.1 hmem with rfl | hrest
    · exact ⟨ks, rfl⟩
    · have hj : f j = true := (List.mem_filter.1 (hlist ▸ List.mem_cons_self)).2
      exact absurd hj (hlow j (List.rel_of_pairwise_cons hsorted hrest))

section

variable {T : Tile} {q : Config.Params} {p : SlaveId} {k : SlotIx} {id : BitVec 5}

/-- The slots of a slave that R350 faults. -/
theorem Tile.mem_badSlots : k ∈ T.badSlots q p ↔ slotEnable (T.layout q) (T.slot[p][k]).val = true
    ∧ slotId (T.layout q) (T.slot[p][k]).val &&& ~~~slotMask (T.layout q) (T.slot[p][k]).val ≠ 0 := by
  simp only [Tile.badSlots, List.mem_filter, List.mem_finRange, true_and, Bool.and_eq_true, bne_iff_ne]

/-- The slots of a slave that match a header id (R350). -/
theorem Tile.mem_matchingSlots : k ∈ T.matchingSlots q p id ↔ slotEnable (T.layout q) (T.slot[p][k]).val = true
    ∧ id &&& slotMask (T.layout q) (T.slot[p][k]).val
      = slotId (T.layout q) (T.slot[p][k]).val &&& slotMask (T.layout q) (T.slot[p][k]).val := by
  simp only [Tile.matchingSlots, List.mem_filter, List.mem_finRange, true_and, Bool.and_eq_true, beq_iff_eq]

/-- The lowest bad slot is the one that faults. -/
theorem Tile.badSlots_eq_cons (hk : k ∈ T.badSlots q p) (hlow : ∀ j, j < k → j ∉ T.badSlots q p) :
    ∃ ks, T.badSlots q p = k :: ks :=
  filter_finRange_eq_cons (List.mem_filter.1 hk).2
    fun j hj hf => hlow j hj (List.mem_filter.2 ⟨List.mem_finRange j, hf⟩)

end

/-- The slot chosen is one of those that match. -/
theorem pickSlot_mem (d : Nat) (k : SlotIx) (ks : List SlotIx) : pickSlot d k ks ∈ k :: ks := by
  cases ks with
  | nil => exact List.mem_cons_self
  | cons k' ks =>
    have hlt : Config.freeNat d % ((k' :: ks).length + 1) < (k :: k' :: ks).length := Nat.mod_lt _ (Nat.succ_pos _)
    rw [pickSlot, List.getD_eq_getElem _ _ hlt]
    · exact List.getElem_mem hlt
    · nofun

/-! ### Targets (R355) -/

/-- A packet master accepts a select where the bit of that select is set in its configuration (R130). -/
theorem mcfgAccepts_eq (L : Config.Layout) (v : Word) (ms : BitVec 2) :
    mcfgAccepts L v ms = v.getLsbD (L.mcfgConfig + (3 + ms.toNat)) := by
  have hbit : 3 + ms.toNat < 7 := by omega
  rw [mcfgAccepts, mcfgConfig, getLsbD_getField, decide_eq_true hbit, Bool.true_and]

/-- The packet masters of an arbiter that accept a select (R355). -/
theorem Tile.mem_packetTargets {T : Tile} {q : Config.Params} {a : BitVec 3} {ms : BitVec 2} {m : MasterId} :
    m ∈ T.packetTargets q a ms ↔ m.val < q.nMasters T.ref.kind
      ∧ (T.mcfg[m]).val.getLsbD (T.layout q).mcfgEnable = true ∧ (T.mcfg[m]).val.getLsbD (T.layout q).mcfgPacket = true
      ∧ (T.mcfg[m]).val.toNat / 2 ^ (T.layout q).mcfgConfig % 8 = a.toNat
      ∧ (T.mcfg[m]).val.getLsbD ((T.layout q).mcfgConfig + (3 + ms.toNat)) = true := by
  simp only [Tile.packetTargets, List.mem_filter, mem_masters, Bool.and_eq_true, Tile.packetMaster_iff, beq_iff_eq,
    ← BitVec.toNat_inj, mcfgArb_toNat, mcfgAccepts_eq, and_assoc]

/-! ### The packet start (R352) -/

/-- The packet start of a slave is enabled where the slave is in packet mode with no packet in flight (R352). -/
theorem Tile.startReady_iff {T : Tile} {q : Config.Params} {p : SlaveId} :
    (T.slaveIn q p true && T.pktRoute[p].isNone) = true ↔ p.val < q.nSlaves T.ref.kind
      ∧ (T.scfg[p]).val.getLsbD (T.layout q).scfgEnable = true ∧ (T.scfg[p]).val.getLsbD (T.layout q).scfgPacket = true
      ∧ T.pktRoute[p] = none := by
  simp only [Tile.slaveIn, slaveEnable, slavePacket, getBit, Bool.and_eq_true, decide_eq_true_eq, beq_iff_eq,
    Option.isNone_iff_eq_none, and_assoc]

section

variable {t : TileId} {p : SlaveId} {id : BitVec 5} {s : State}

/-- The header at the head of the queue is classified (R350, R352). -/
theorem packetStart_cons {h : StreamWord} {rest : List StreamWord} (hq : (s.tile t).inQ[p] = h :: rest)
    (hr : ((s.tile t).slaveIn s.params p true && (s.tile t).pktRoute[p].isNone) = true) :
    packetStart t p s = startPacket t p (hdrId s.params.header h.data) s := by
  simp only [packetStart, hq, hr, if_true]

/-- No packet starts from an empty queue, or where the step is not enabled. -/
theorem packetStart_stays (h : (s.tile t).inQ[p] = []
      ∨ ¬ ((s.tile t).slaveIn s.params p true && (s.tile t).pktRoute[p].isNone) = true) :
    packetStart t p s = s := by
  simp only [packetStart]
  split
  case h_1 => rfl
  case h_2 hq => exact if_neg (h.resolve_left (by rw [hq]; exact List.cons_ne_nil _ _))

theorem startPacket_of_bad {k : SlotIx} {ks : List SlotIx} (hbad : (s.tile t).badSlots s.params p = k :: ks) :
    startPacket t p id s = s.raise (.slotIdOutsideMask p k) := by
  simp only [startPacket, hbad]

theorem startPacket_of_noMatch (hbad : (s.tile t).badSlots s.params p = [])
    (hid : (s.tile t).matchingSlots s.params p id = []) : startPacket t p id s = s.raise (.noSlotMatch p id) := by
  simp only [startPacket, hbad, hid]

/-- The packet start by slot `k`, of arbiter `a` and select `ms`, with `d` values drawn for the choice of the slot (R352,
R355). -/
def startBySlot (t : TileId) (p : SlaveId) (k : SlotIx) (a : BitVec 3) (ms : BitVec 2) (d : Nat) (s : State) : State :=
  let ts := (s.tile t).packetTargets s.params a ms
  if s.params.nArb ≤ a.toNat then s.raise (.arbiterRangeSlot p k)
  else if ts.isEmpty then s.raise (.noPacketRoute p a ms)
  else (s.modTile t fun T => { T with pktRoute := T.pktRoute.set p (some ⟨ts, a, true⟩) }).drew d

/-- With no bad slot, a packet starts by one of the slots that match its header (R350). -/
theorem startPacket_of_match (hbad : (s.tile t).badSlots s.params p = [])
    (hid : (s.tile t).matchingSlots s.params p id ≠ []) :
    ∃ k ∈ (s.tile t).matchingSlots s.params p id, ∃ d, startPacket t p id s
      = startBySlot t p k (slotArb (s.layout t) (s.tile t).slot[p][k].val)
          (slotMsel (s.layout t) (s.tile t).slot[p][k].val) d s := by
  obtain ⟨k, ks, hks⟩ := List.exists_cons_of_ne_nil hid
  rw [hks]
  exact ⟨_, pickSlot_mem s.draws k ks, if ks.isEmpty then 0 else 1, by simp only [startPacket, startBySlot, hbad, hks]⟩

section

variable {k : SlotIx} {a : BitVec 3} {ms : BitVec 2} {d : Nat}

theorem startBySlot_of_range (h : s.params.nArb ≤ a.toNat) :
    startBySlot t p k a ms d s = s.raise (.arbiterRangeSlot p k) := if_pos h

theorem startBySlot_of_noRoute (h : a.toNat < s.params.nArb) (hts : (s.tile t).packetTargets s.params a ms = []) :
    startBySlot t p k a ms d s = s.raise (.noPacketRoute p a ms) := by
  rw [startBySlot, if_neg (Nat.not_le.2 h), hts]; rfl

theorem startBySlot_of_route (h : a.toNat < s.params.nArb) (hts : (s.tile t).packetTargets s.params a ms ≠ []) :
    startBySlot t p k a ms d s = (s.modTile t fun T => { T with
      pktRoute := T.pktRoute.set p (some ⟨(s.tile t).packetTargets s.params a ms, a, true⟩) }).drew d := by
  rw [startBySlot, if_neg (Nat.not_le.2 h), if_neg (mt List.isEmpty_iff.1 hts)]

end

end

/-- Values drawn before and after a change of one tile. -/
theorem State.drew_modTile_drew (s : State) (t : TileId) (f : Tile → Tile) (n d : Nat) :
    ((s.drew n).modTile t f).drew d = (s.modTile t f).drew (n + d) :=
  congrArg (fun draws => { s.modTile t f with draws := draws }) (Nat.add_assoc s.draws n d)

/-- Settles O42: the switch takes its step, and the model's slots, targets and readiness are those of the rules. -/
theorem packetStartStep : Obligations.PacketStartStep := by
  intro s t p T L hcalm en sid mask bad ready
  have isBad {k : SlotIx} : k ∈ T.badSlots s.params p ↔ bad k := by
    rw [Tile.mem_badSlots, slotId, slotMask, getField_eq_ofNat, getField_eq_ofNat]; rfl
  have enabled : (T.slaveIn s.params p true && T.pktRoute[p].isNone) = true ↔ ready := Tile.startReady_iff
  obtain ⟨n, hn, hstep⟩ := switchStep_runs hcalm
  have hexec : exec (.swPktStart t p) s = .next (packetStart t p (s.drew n)) := congrArg Host.Outcome.next (hstep _)
  refine ⟨fun hL => by rw [hL]; exact ⟨rfl, rfl, rfl, rfl, rfl⟩, fun hno => ⟨n, hn, ?stays⟩, ?starts⟩
  case stays => rw [hexec, packetStart_stays (s := s.drew n) (hno.imp_right (mt enabled.1))]; rfl
  case starts =>
    intro h rest hq hr id hit
    have isHit {k : SlotIx} : k ∈ T.matchingSlots s.params p id ↔ hit k := by
      rw [Tile.mem_matchingSlots, slotId, slotMask, getField_eq_ofNat, getField_eq_ofNat]; rfl
    have noBad (hnone : ∀ k, ¬ bad k) : T.badSlots s.params p = [] :=
      List.eq_nil_iff_forall_not_mem.2 fun k => mt isBad.1 (hnone k)
    replace hexec : exec (.swPktStart t p) s = .next (startPacket t p id (s.drew n)) :=
      hexec.trans (congrArg Host.Outcome.next (packetStart_cons (s := s.drew n) hq (enabled.2 hr)))
    refine ⟨fun k hk hlow => ⟨n, hn, ?bad⟩, fun hnone hmiss => ⟨n, hn, ?noMatch⟩, fun hnone hmatch => ?hit⟩
    case bad =>
      obtain ⟨ks, hks⟩ := Tile.badSlots_eq_cons (isBad.2 hk) fun j hj => mt isBad.1 (hlow j hj)
      rw [hexec, startPacket_of_bad (s := s.drew n) hks]; rfl
    case noMatch =>
      have hid : T.matchingSlots s.params p id = [] := List.eq_nil_iff_forall_not_mem.2 fun k => mt isHit.1 (hmiss k)
      rw [hexec, startPacket_of_noMatch (s := s.drew n) (noBad hnone) hid]; rfl
    case hit =>
      obtain ⟨k₀, hk₀⟩ := hmatch
      obtain ⟨k, hk, d, hslot⟩ := startPacket_of_match (s := s.drew n) (noBad hnone) (List.ne_nil_of_mem (isHit.2 hk₀))
      refine ⟨k, isHit.1 hk, n, hn, ?_⟩
      intro a ms isTarget
      have target {m : MasterId} : m ∈ T.packetTargets s.params a ms ↔ isTarget m := Tile.mem_packetTargets
      rw [slotArb, slotMsel, getField_eq_ofNat, getField_eq_ofNat] at hslot
      replace hexec : exec (.swPktStart t p) s = .next (startBySlot t p k a ms d (s.drew n)) :=
        hexec.trans (congrArg Host.Outcome.next hslot)
      refine ⟨fun ha => ?range, fun ha hno => ?noRoute, fun ha hsome => ?route⟩
      case range => rw [hexec, startBySlot_of_range (s := s.drew n) ha]; rfl
      case noRoute =>
        have hts : T.packetTargets s.params a ms = [] := List.eq_nil_iff_forall_not_mem.2 fun m => mt target.1 (hno m)
        rw [hexec, startBySlot_of_noRoute (s := s.drew n) ha hts]; rfl
      case route =>
        obtain ⟨m, hm⟩ := hsome
        rw [startBySlot_of_route (s := s.drew n) ha (List.ne_nil_of_mem (target.2 hm)), State.drew_modTile_drew] at hexec
        obtain ⟨s', hnext, hframe, hmem, htile⟩ := next_mod _ (n + d) hexec (fun _ => rfl) rfl
        exact ⟨s', T.packetTargets s.params a ms, hnext, hframe, hmem, fun _ => target, htile⟩

/-! ### Forwarding (R353, R354, R356 to R358) -/

/-- The place of the arbiter with a number. -/
theorem arbIx_eq {a : Fin 8} {b : BitVec 3} (h : a.val = b.toNat) : arbIx b = a :=
  Fin.ext ((Nat.mod_eq_of_lt b.isLt).trans h.symm)

section

variable {T : Tile} {q : Config.Params} {p : SlaveId} {r : PktRoute}

/-- The receivers of a packet's next word are its targets, but those that drop the header while it is the header (R357). -/
theorem Tile.mem_receivers {m : MasterId} : m ∈ T.receivers q r ↔
    m ∈ r.targets ∧ ¬ (r.first = true ∧ (T.mcfg[m]).val.getLsbD (T.layout q).mcfgDrop = true) := by
  simp only [Tile.receivers, List.mem_filter, mcfgDrop, getBit, Bool.not_eq_true', ← Bool.and_eq_true, Bool.not_eq_true]

/-- The forward step of a slave is enabled where the slave and its arbiter, masters and receivers are (R353, R356). -/
theorem Tile.forwardReady_iff {a : Fin 8} (ha : arbIx r.arb = a) : T.forwardReady q p r = true ↔
    p.val < q.nSlaves T.ref.kind ∧ (T.scfg[p]).val.getLsbD (T.layout q).scfgEnable = true
      ∧ (T.arbOwner[a] = none ∨ T.arbOwner[a] = some p)
      ∧ (∀ (x : SlaveId) y, x ≠ p → T.pktRoute[x] = some y → y.first = false → ∀ m ∈ y.targets, m ∉ r.targets)
      ∧ ∀ m, m ∈ T.receivers q r → (T.outQ[m]).length < q.portDepth := by
  subst ha
  simp only [Tile.forwardReady, Tile.arbFree, slaveEnable, getBit, Bool.and_eq_true, Bool.or_eq_true, decide_eq_true_eq,
    beq_iff_eq, Tile.mastersFree_iff, Tile.spaceAll_iff, and_assoc]

end

section

variable {t : TileId} {p : SlaveId} {s : State}

/-- Nothing is forwarded without a packet in flight and a word queued. -/
theorem packetForward_of_none (h : (s.tile t).pktRoute[p] = none ∨ (s.tile t).inQ[p] = []) : packetForward t p s = s := by
  simp only [packetForward]
  split
  case h_1 hq hr => simp [hq, hr] at h
  case h_2 => rfl

section

variable {r : PktRoute} {w : StreamWord} {rest : List StreamWord}
  (hr : (s.tile t).pktRoute[p] = some r) (hq : (s.tile t).inQ[p] = w :: rest)

include hr hq

/-- With a packet in flight and a word queued, the word is forwarded where the step is enabled (R353). -/
theorem packetForward_of_ready (h : (s.tile t).forwardReady s.params p r = true) :
    packetForward t p s = s.modTile t fun T => T.forward s.params p r w := by
  simp only [packetForward, hr, hq, h, if_true]

theorem packetForward_of_not_ready (h : ¬ (s.tile t).forwardReady s.params p r = true) : packetForward t p s = s := by
  simp only [packetForward, hr, hq, if_neg h]

end

end

/-- Settles O43: the switch takes its step, and the model's receivers and readiness are those of the rules. -/
theorem packetForwardStep : Obligations.PacketForwardStep := by
  intro s t p T L hcalm
  obtain ⟨n, hn, hstep⟩ := switchStep_runs hcalm
  have hexec : exec (.swPktForward t p) s = .next (packetForward t p (s.drew n)) := congrArg Host.Outcome.next (hstep _)
  refine ⟨fun hno => ⟨n, hn, by rw [hexec, packetForward_of_none (s := s.drew n) hno]; rfl⟩, ?_⟩
  intro r w rest a receives ready hr ha hq
  have receiver {m : MasterId} : m ∈ T.receivers s.params r ↔ receives m := Tile.mem_receivers
  have enabled : T.forwardReady s.params p r = true ↔ ready := by
    rw [Tile.forwardReady_iff (arbIx_eq ha)]; simp only [receiver]; rfl
  refine ⟨fun hL => by rw [hL]; rfl, fun hready => ?moves, fun hready => ⟨n, hn, ?stays⟩⟩
  case moves =>
    rw [packetForward_of_ready (s := s.drew n) hr hq (enabled.2 hready)] at hexec
    obtain ⟨s', hnext, hframe, hmem, htile⟩ :=
      next_mod (fun T => T.forward s.params p r w) n hexec (fun _ => by simp) rfl
    have hout (m : MasterId) :
        (s'.tile t).outQ[m] = if m ∈ T.receivers s.params r then T.outQ[m] ++ [w] else T.outQ[m] := by
      rw [htile, ← Tile.pushOut_at]; rfl
    refine ⟨s', hnext, hframe, hmem, ?_, fun m hm => ?_, fun m hm => ?_⟩
    · rw [htile]
      simp only [Tile.forward, Tile.pushOut, Tile.popIn, arbIx_eq ha]
      rw [hq]; rfl
    · rw [hout, if_pos (receiver.2 hm)]
    · rw [hout, if_neg (mt receiver.1 hm)]
  case stays =>
    rw [hexec, packetForward_of_not_ready (s := s.drew n) hr hq (mt enabled.1 hready)]; rfl

end Sys2Proof.Machine
end

section
/-! PROOF. What raises a fault or refuses does nothing else (O8; R372, R373).  Every meaning is followed once with the
relation `StopsAlone`, which the shared operations keep; only a switch step may draw a value before it raises its fault. -/

namespace Sys2Proof.Machine

/-- What a state has recorded of faults and refusals, and the fault that its next step raises (R55; log 10). -/
def State.stops (s : State) : List Fault × Option Refusal × Option Fault := (s.faults, s.refusal, s.pending)

theorem State.stops_eq_iff {s s' : State} :
    s'.stops = s.stops ↔ s'.faults = s.faults ∧ s'.refusal = s.refusal ∧ s'.pending = s.pending := by
  simp only [State.stops, Prod.mk.injEq]

/-- What an instruction may do to that record: nothing, add one fault or a refusal and do nothing else but for one draw
before the fault, or, by a write of a descriptor in use, make a fault due (R269). -/
inductive StopsAlone (i : Instr) (s s' : State) : Prop
  | goes (h : s'.stops = s.stops := by rfl)
  | raises (f : Fault) (n : Nat) (hn : n ≤ 1) (h : s' = (s.raise f).drew n)
  | refuses (r : Refusal) (h : s' = s.refuse r)
  | defers (t : TileId) (n : BdIx) (k : BdWordIx) (v : Word) (hi : i = .bdWr t n k v) (hu : (s.tile t).bdInUse n = true)
      (hb : s.params.bdInUse = .fault) (h : s'.stops = (s.raiseNext (.bdInUseWrite n)).stops)

/-! ### What each way of stopping leaves -/

theorem StopsAlone.of_faults_ne {i : Instr} {s s' : State} (h : StopsAlone i s s') (hne : s'.faults ≠ s.faults) :
    ∃ f n, n ≤ 1 ∧ s' = (s.raise f).drew n := by
  cases h with
  | goes h => exact absurd (State.stops_eq_iff.1 h).1 hne
  | raises f n hn h => exact ⟨f, n, hn, h⟩
  | refuses r h => exact absurd (by rw [h, State.refuse_faults]) hne
  | defers t n k v hi hu hb h => exact absurd (State.stops_eq_iff.1 h).1 hne

theorem StopsAlone.of_refusal_ne {i : Instr} {s s' : State} (h : StopsAlone i s s') (hne : s'.refusal ≠ s.refusal) :
    ∃ r, s' = s.refuse r := by
  cases h with
  | goes h => exact absurd (State.stops_eq_iff.1 h).2.1 hne
  | raises f n hn h => exact absurd (by rw [h, State.drew_refusal, State.raise_refusal]) hne
  | refuses r h => exact ⟨r, h⟩
  | defers t n k v hi hu hb h => exact absurd (State.stops_eq_iff.1 h).2.1 hne

theorem StopsAlone.of_pending_ne {i : Instr} {s s' : State} (h : StopsAlone i s s') (hne : s'.pending ≠ s.pending) :
    ∃ t n k v, i = .bdWr t n k v ∧ (s.tile t).bdInUse n = true ∧ s.params.bdInUse = .fault
      ∧ s'.pending = some (.bdInUseWrite n) := by
  cases h with
  | goes h => exact absurd (State.stops_eq_iff.1 h).2.2 hne
  | raises f n hn h => exact absurd (by rw [h, State.drew_pending, State.raise_pending]) hne
  | refuses r h => exact absurd (by rw [h, State.refuse_pending]) hne
  | defers t n k v hi hu hb h => exact ⟨t, n, k, v, hi, hu, hb, (State.stops_eq_iff.1 h).2.2⟩

/-! ### The shared operations -/

section
variable {i : Instr} {s s' : State}

theorem StopsAlone.raise {f : Fault} : StopsAlone i s (s.raise f) := .raises f 0 (Nat.zero_le 1) rfl

theorem StopsAlone.refuse {r : Refusal} : StopsAlone i s (s.refuse r) := .refuses r rfl

theorem StopsAlone.onKind {x : TileKind} {t : TileId} {off : Nat} (h : StopsAlone i s s') :
    StopsAlone i s (onKind x t off s s') := by
  unfold Machine.onKind; split
  · exact h
  · exact .raise

theorem StopsAlone.below {j n off : Nat} (h : StopsAlone i s s') : StopsAlone i s (below j n off s s') := by
  unfold Machine.below; split
  · exact h
  · exact .raise

theorem StopsAlone.onEngine {e : TileId} (h : StopsAlone i s s') : StopsAlone i s (onEngine e s s') := by
  unfold Machine.onEngine; split
  · exact h
  · exact .refuse

theorem StopsAlone.checked {cs : List (Bool × ErrReason)} (h : StopsAlone i s s') : StopsAlone i s (checked cs s s') := by
  rcases checked_cases cs s s' with ⟨e, -, hc⟩ | ⟨-, hc⟩ <;> rw [hc]
  · exact .goes
  · exact h

theorem StopsAlone.runSub {c : SubCommand} : StopsAlone i s (runSub c s) := by
  cases c with
  | error e => exact .goes
  | ok ops => exact .goes

theorem StopsAlone.setter {e : TileId} {n : Nat} {cs : List (Bool × ErrReason)} {f : MirrorBd → MirrorBd} :
    StopsAlone i s (setter e n cs f s) := .onEngine (.checked .goes)

theorem StopsAlone.lockCommand {a : Bool} {t : TileId} {l : Nat} {v : ValArg} {timeout : Nat} :
    StopsAlone i s (lockCommand a t l v timeout s) := .checked .goes

theorem StopsAlone.lockRead {x : TileKind} {t : TileId} {l : LockIx} {q : LockKind} :
    StopsAlone i s (lockRead x t l q s) := .onKind .goes

theorem StopsAlone.lockWrite {x : TileKind} {t : TileId} {l : LockIx} {op : Nat} :
    StopsAlone i s (lockWrite x t l op s) := .onKind (.below .raise)

/-- A switch step may draw whether it raises a configuration fault; a body that stops draws nothing more (log 16). -/
theorem StopsAlone.switchStep {t : TileId} {k : State → State}
    (hk : ∀ s, (k s).stops = s.stops ∨ ∃ f, k s = s.raise f) : StopsAlone i s (switchStep t s k) := by
  rcases switchStep_cases t s k with e | e | ⟨f, e, -⟩ <;> rw [e]
  · rcases hk s with h | ⟨f, h⟩
    · exact .goes h
    · rw [h]; exact .raise
  · rcases hk (s.drew 1) with h | ⟨f, h⟩
    · exact .goes h
    · exact .raises f 1 le_rfl h
  · exact .raise

end

/-! ### The steps of the agents -/

theorem circuitMove_stops (t : TileId) (p : SlaveId) (s : State) : (circuitMove t p s).stops = s.stops := by
  unfold circuitMove; split <;> rfl

theorem packetForward_stops (t : TileId) (p : SlaveId) (s : State) : (packetForward t p s).stops = s.stops := by
  simp only [packetForward]
  split
  · split <;> rfl
  · rfl

/-- A packet's start draws its slot only where it raises no fault (R350, R352, R355). -/
theorem startPacket_stops (t : TileId) (p : SlaveId) (id : BitVec 5) (s : State) :
    (startPacket t p id s).stops = s.stops ∨ ∃ f, startPacket t p id s = s.raise f := by
  simp only [startPacket]
  split
  · exact .inr ⟨_, rfl⟩
  · exact .inr ⟨_, rfl⟩
  · split
    · exact .inr ⟨_, rfl⟩
    · split
      · exact .inr ⟨_, rfl⟩
      · exact .inl rfl

theorem packetStart_stops (t : TileId) (p : SlaveId) (s : State) :
    (packetStart t p s).stops = s.stops ∨ ∃ f, packetStart t p s = s.raise f := by
  simp only [packetStart]
  split
  · exact .inl rfl
  · split
    · exact startPacket_stops t p _ s
    · exact .inl rfl

theorem envAct_stops (t : TileId) (s : State) (act : EnvAction) : (envAct t s act).stops = s.stops := by
  cases act with
  | push p w => simp only [envAct]; split <;> rfl
  | pop m => simp only [envAct]; split <;> rfl
  | lock who l q => rfl
  | read who wa => rfl
  | write who wa v => rfl

theorem acquireBd_stops (t : TileId) (c : ChIx) (b : HwBd) (s : State) : (acquireBd t c b s).stops = s.stops := by
  simp only [acquireBd]; split_ifs <;> rfl

theorem sendHeader_stops (t : TileId) (c : ChIx) (b : HwBd) (s : State) : (sendHeader t c b s).stops = s.stops := by
  simp only [sendHeader]; split <;> rfl

theorem releaseBd_stops (t : TileId) (c : ChIx) (b : HwBd) (s : State) : (releaseBd t c b s).stops = s.stops := by
  simp only [releaseBd]; split_ifs <;> rfl

theorem StopsAlone.fetchBd {i : Instr} {t : TileId} {c : ChIx} {s : State} : StopsAlone i s (fetchBd t c s) := by
  simp only [Machine.fetchBd]
  split
  · exact .raise
  · split
    · exact .raise
    · split
      · exact .refuse
      · split
        · exact .refuse
        · exact .goes

theorem StopsAlone.sendWord {i : Instr} {t : TileId} {c : ChIx} {b : HwBd} {s : State} :
    StopsAlone i s (sendWord t c b s) := by
  simp only [Machine.sendWord]
  split_ifs
  · exact .raise
  · exact .goes
  · exact .goes

theorem StopsAlone.storeWord {i : Instr} {t : TileId} {c : ChIx} {b : HwBd} {s : State} :
    StopsAlone i s (storeWord t c b s) := by
  simp only [Machine.storeWord]
  split
  · exact .goes
  · split
    · exact .raise
    · exact .goes

/-! ### Every instruction -/

/-- Over all instructions, a fault or a refusal comes alone, and only the in-use write makes a fault due. -/
theorem exec_stopsAlone (i : Instr) (s s' : State) (h : exec i s = .next s') : StopsAlone i s s' := by
  cases i with
  | dmWr t wa v | dmRd t wa => cases h; exact .onKind (.below .goes)
  | bdWr t n k v =>
    cases h; refine .onKind ?_
    split
    case isTrue hu =>
      obtain ⟨huse, hfault⟩ := Bool.and_eq_true_iff.1 hu
      exact .defers t n k v rfl huse (eq_of_beq hfault) rfl
    case isFalse => exact .goes
  | bdRd t n k =>
    cases h; refine .onKind ?_
    split
    · exact .goes
    · exact .raise
  | chStartBdWr t c v =>
    cases h; refine .onKind ?_
    split
    · exact .raise
    · exact .goes
  | chCtrlWr t c v | chCtrlRd t c | chStartBdRd t c | chStatusRd t ix => cases h; exact .onKind .goes
  | chStatusWr t ix v => cases h; exact .onKind .raise
  | lockAcqNvRd t l | lockAcqV0Rd t l | lockAcqV1Rd t l | lockRelNvRd t l | lockRelV0Rd t l | lockRelV1Rd t l
  | lockAcqNvRdBt t l | lockAcqV0RdBt t l | lockAcqV1RdBt t l | lockRelNvRdBt t l | lockRelV0RdBt t l
  | lockRelV1RdBt t l => cases h; exact .lockRead
  | lockWr t l op v | lockWrBt t l op v => cases h; exact .lockWrite
  | mcfgWr t m v | mcfgRd t m | scfgWr t p v | scfgRd t p | slotWr t p k v | slotRd t p k => cases h; exact .below .goes
  | walkStart t c | walkAbandon t c | walkAdvance t c => cases h; split <;> exact .goes
  | walkFetch t c =>
    cases h; split
    · exact .fetchBd
    · exact .goes
  | walkAcquire t c =>
    cases h; split
    · exact .goes (acquireBd_stops t c _ s)
    · exact .goes
  | walkHeader t c =>
    cases h; split
    · exact .goes (sendHeader_stops t c _ s)
    · exact .goes
  | walkTransfer t c =>
    cases h; split
    · split
      · exact .sendWord
      · exact .storeWord
    · exact .goes
  | walkRelease t c =>
    cases h; split
    · exact .goes (releaseBd_stops t c _ s)
    · exact .goes
  | swCircuit t p => cases h; exact .switchStep fun s => .inl (circuitMove_stops t p s)
  | swPktStart t p => cases h; exact .switchStep (packetStart_stops t p)
  | swPktForward t p => cases h; exact .switchStep fun s => .inl (packetForward_stops t p s)
  | envStep t act =>
    cases h; split
    · exact .goes (envAct_stops t s act)
    · exact .goes
  | poll t off mask expected timeout => cases h; exact .goes
  | lockAcquire t l v timeout | lockRelease t l v timeout => cases h; exact .lockCommand
  | bdSetLock | bdSet2D | bdSetInterleave | bdSetAddrLenMode | bdSetNext | bdSetPacket | bdClear => cases h; exact .setter
  | bdClearAll e | chResetAll e => cases h; exact .onEngine .goes
  | bdCommit e n | chReset e c => cases h; exact .onEngine (.checked .goes)
  | chControl e c reset enable | chSetStartBd e c bd => cases h; exact .onEngine .runSub
  | dmaInitialize e force => cases h; refine .onEngine (.checked ?_); split <;> exact .goes
  | ssPortId kind dir cls ix => cases h; exact .goes
  | ssConfigureMaster | ssConfigureSlave | ssConfigureSlot => cases h; exact .runSub
  | ssConnectCircuit | ssMstrPktConfig => cases h; exact .checked .goes

/-- A fault that is due is all that the next step records (R372; log 10). -/
theorem step_of_pending {s : State} {f : Fault} (hf : s.faults = []) (hr : s.refusal = none) (hp : s.pending = some f) :
    step s = .next { s with pending := none, faults := [f] } := by
  simp only [step, oneStep, hf, hr, hp, State.raise, List.nil_append]

/-- Settles O8: by `exec_stopsAlone` for an instruction, and by the order of `oneStep` for a fault that is due. -/
theorem faultStepsDoNothingElse : Obligations.FaultStepsDoNothingElse := by
  refine ⟨fun i s s' h => ?_, fun s f => step_of_pending⟩
  have halone := exec_stopsAlone i s s' h
  exact ⟨halone.of_faults_ne, halone.of_refusal_ne, halone.of_pending_ne⟩

end Sys2Proof.Machine
end

section
/-! PROOF. The power-on state (O19; R401).  What stands at each place of a tile at power-on is said once, for all parameters.  No
walker moves there by a rule about every state: an Idle walker steps only by a start, which needs an enabled channel and a
pending start. -/

namespace Sys2Proof.Machine

/-! ### The places of a tile at power-on (R401) -/

section

variable (p : Config.PowerOn) (r : TileRef)

@[simp] theorem Tile.powerOn_bdw (n : BdIx) (k : BdWordIx) : (Tile.powerOn p r).bdw[n][k] = ⟨0, false⟩ := by
  simp only [Tile.powerOn, Fin.getElem_fin, Vector.getElem_replicate]

@[simp] theorem Tile.powerOn_abCur (n : BdIx) : (Tile.powerOn p r).abCur[n] = .a := Vector.getElem_replicate ..

@[simp] theorem Tile.powerOn_ctrl (c : ChIx) : (Tile.powerOn p r).ctrl[c] = ⟨p.ctrl, true⟩ := Vector.getElem_replicate ..

@[simp] theorem Tile.powerOn_startBd (c : ChIx) : (Tile.powerOn p r).startBd[c] = ⟨p.startBd, true⟩ :=
  Vector.getElem_replicate ..

@[simp] theorem Tile.powerOn_walker (c : ChIx) : (Tile.powerOn p r).walker[c] = .powerOn := Vector.getElem_replicate ..

@[simp] theorem Tile.powerOn_lock (l : LockIx) : (Tile.powerOn p r).lock[l] = ⟨p.lockHeld, p.lockValue⟩ :=
  Vector.getElem_replicate ..

@[simp] theorem Tile.powerOn_mcfg (m : MasterId) : (Tile.powerOn p r).mcfg[m] = ⟨p.mcfg, false⟩ :=
  Vector.getElem_replicate ..

@[simp] theorem Tile.powerOn_scfg (x : SlaveId) : (Tile.powerOn p r).scfg[x] = ⟨p.scfg, false⟩ :=
  Vector.getElem_replicate ..

@[simp] theorem Tile.powerOn_slot (x : SlaveId) (k : SlotIx) : (Tile.powerOn p r).slot[x][k] = ⟨p.slot, false⟩ := by
  simp only [Tile.powerOn, Fin.getElem_fin, Vector.getElem_replicate]

@[simp] theorem Tile.powerOn_inQ (x : SlaveId) : (Tile.powerOn p r).inQ[x] = [] := Vector.getElem_replicate ..

@[simp] theorem Tile.powerOn_outQ (m : MasterId) : (Tile.powerOn p r).outQ[m] = [] := Vector.getElem_replicate ..

@[simp] theorem Tile.powerOn_pktRoute (x : SlaveId) : (Tile.powerOn p r).pktRoute[x] = none := Vector.getElem_replicate ..

@[simp] theorem Tile.powerOn_arbOwner (a : Fin 8) : (Tile.powerOn p r).arbOwner[a] = none := Vector.getElem_replicate ..

end

/-! ### Walkers that do not move (R259 to R261) -/

section

variable {s : State} {t : TileId} {c : ChIx}

/-- An Idle walker is in no other phase. -/
theorem walkIn_of_idle (hi : (s.walker t c).phase = .idle) {p : Phase} (hp : p ≠ .idle) : s.walkIn t c p = false := by
  refine eq_false_of_ne_true fun hw => hp ?_
  obtain ⟨-, hphase, -⟩ := walkIn_iff hw
  exact hphase.symm.trans hi

/-- An Idle walker whose channel is not enabled or has no start pending takes no step (R260; log 9). -/
theorem exec_walk_of_idle (hi : (s.walker t c).phase = .idle)
    (hstart : ctrlEnable (s.layout t) (s.ctrl t c) = false ∨ (s.walker t c).startPending = false) (w : WalkStep) :
    exec (decodeAgent (.walk t c w)) s = .next s := by
  cases w with
  | start =>
    have hno : (s.walkIn t c .idle && ctrlEnable (s.layout t) (s.ctrl t c) && (s.walker t c).startPending) = false := by
      rw [Bool.and_assoc, Bool.and_eq_false_iff.2 hstart, Bool.and_false]
    exact congrArg Host.Outcome.next (if_neg (ne_true_of_eq_false hno))
  | abandon =>
    have hno : ((s.walker t c).phase != .idle) = false := by rw [hi]; rfl
    simp only [decodeAgent, exec, execWalkAbandon, hno, Bool.and_false, Bool.false_and, Bool.false_eq_true, if_false]
  | fetch | acquire | header | transfer | release | advance =>
    simp only [decodeAgent, exec, execWalkFetch, execWalkAcquire, execWalkHeader, execWalkTransfer, execWalkRelease,
      execWalkAdvance, walkIn_of_idle hi, ne_eq, reduceCtorEq, not_false_eq_true, Bool.false_eq_true, if_false]

end

/-- The walkers at power-on, for all parameters and tile references (R40, R401). -/
theorem State.powerOn_walker (q : Config.Params) (p : Config.PowerOn) (refs : Vector TileRef 2) (t : TileId) (c : ChIx) :
    (State.powerOn q p refs).walker t c = .powerOn := by
  rw [State.walker, State.powerOn_tile, Tile.powerOn_walker]

/-- No walker moves at power-on, whatever the parameters, since none has a start pending (R260, R401). -/
theorem exec_walk_powerOn (q : Config.Params) (p : Config.PowerOn) (refs : Vector TileRef 2) (t : TileId) (c : ChIx)
    (w : WalkStep) : exec (decodeAgent (.walk t c w)) (State.powerOn q p refs) = .next (State.powerOn q p refs) := by
  have hw : (State.powerOn q p refs).walker t c = .powerOn := State.powerOn_walker ..
  exact exec_walk_of_idle (by rw [hw]; rfl) (.inr (by rw [hw]; rfl)) w

/-- A read of a status register returns a word drawn at the read (R29, R255). -/
theorem exec_chStatusRd_draws {s : State} {t : TileId} (hk : s.kind t = .ct) (i : Fin 2) :
    ∃ s', exec (.chStatusRd t i) s = .next s' ∧ s'.host.readData = Config.freeWord s.draws :=
  ⟨_, exec_of_kind hk rfl, rfl⟩

/-- Settles O19: what stands at each place, and `exec_walk_powerOn` at the reference values. -/
theorem powerOnState : Obligations.PowerOnState := by
  refine ⟨fun q p refs t => ?_, exec_walk_powerOn _ _ _⟩
  intro s T
  have hT : T = Tile.powerOn p refs[t] := State.powerOn_tile q p refs t
  clear_value T
  subst hT
  refine ⟨rfl, fun n k => ?bdWord, Tile.powerOn_abCur _ _, fun c => ?channel, Tile.powerOn_lock _ _, fun m => ?master,
    fun x => ?slave, Tile.powerOn_arbOwner _ _, fun _ => rfl, fun i hk => exec_chStatusRd_draws hk i,
    rfl, rfl, rfl, rfl, Vector.getElem_replicate ..⟩
  case bdWord => rw [Tile.powerOn_bdw]
  case channel => simp only [Tile.powerOn_ctrl, Tile.powerOn_startBd, Tile.powerOn_walker, Walker.powerOn, and_self]
  case master => simp only [Tile.powerOn_mcfg, Tile.powerOn_outQ, and_self]
  case slave =>
    simp only [Tile.powerOn_scfg, Tile.powerOn_slot, Tile.powerOn_inQ, Tile.powerOn_pktRoute, implies_true, and_self]

end Sys2Proof.Machine
end
